-- ==== Sys2Proof/Word.lean ====
section
/-! DEFINITION. The word types of the HPE: a data byte (00_scope.md R8, `DATA_W` = `REG_DATA_W` = 8) and a
controller register address (00_scope.md R8, `REG_ADDR_W` = 4). All values are unsigned (00_scope.md R9). -/

namespace Sys2Proof

/-- A byte: a data field of the host port, or a controller register (00_scope.md R8, 20_memory.md R64). -/
abbrev Byte := BitVec 8

/-- A controller register address: 16 byte addresses, 0x0 to 0xF (20_memory.md R60). -/
abbrev RegAddr := BitVec 4

end Sys2Proof
end

