-- ==== Sys2Proof/Syntax.lean ====
section
/-! DEFINITION. The operations of the HPE: one constructor per row of spec/opcode_table.json (30_encoding.md R82).
No operation has an operand field (30_encoding.md R86). -/

namespace Sys2Proof

/-- The eight operations (30_encoding.md R81, R82). -/
inductive Instr where
  /-- 42_control.md R141. -/
  | nop
  /-- 40_send.md R100. -/
  | send1
  /-- 41_receive.md R120. -/
  | recv1
  /-- 41_receive.md R122. -/
  | awaitcmd
  /-- 42_control.md R142. -/
  | enable
  /-- 42_control.md R143. -/
  | release
  /-- 40_send.md R101. -/
  | send2
  /-- 41_receive.md R121. -/
  | recv2
  deriving DecidableEq, Repr

end Sys2Proof
end

