-- ==== Sys2Proof/WellFormed.lean ====
section
/-! DEFINITION. The one instruction format, CMD8 (30_encoding.md R80), as its three fields, and the three checks
its fields must pass to be an operation (30_encoding.md R80, R81). An `Instr` itself has no operand, so it has
nothing that could be ill-formed. -/

namespace Sys2Proof

/-- The fields of a CMD byte (30_encoding.md R80). -/
structure Cmd8 where
  /-- Bits [7:4], reserved. -/
  rsv : BitVec 4
  /-- Bit [3]: the width, one byte or two. -/
  w : Bool
  /-- Bits [2:0]: the operation. -/
  op : BitVec 3
  deriving DecidableEq, Repr

namespace Cmd8

/-- RSV must be 0b0000 (30_encoding.md R80). -/
def rsvZero (c : Cmd8) : Bool := c.rsv == 0b0000#4

/-- OP is not one of the two reserved values (30_encoding.md R81). -/
def opAssigned (c : Cmd8) : Bool := !(c.op == 0b100#3 || c.op == 0b101#3)

/-- W = 1 goes only with SEND and RECV (30_encoding.md R81). -/
def widthAllowed (c : Cmd8) : Bool := !c.w || c.op == 0b001#3 || c.op == 0b010#3

/-- All three checks. -/
def wellFormed (c : Cmd8) : Bool := c.rsvZero && c.opAssigned && c.widthAllowed

end Cmd8

/-- Every operation is well-formed: it has no operand (30_encoding.md R86). -/
def Instr.wellFormed : Instr → Bool
  | .nop | .send1 | .recv1 | .awaitcmd | .enable | .release | .send2 | .recv2 => true

end Sys2Proof
end

