-- ==== Sys2Proof/Decode.lean ====
section
/-! DEFINITION. The decoder, total on every byte (30_encoding.md R85), and after it the encoder, from the field
table of 30_encoding.md R81. -/

namespace Sys2Proof

/-- Why a CMD byte is illegal: the three groups of 30_encoding.md R83. -/
inductive Illegal where
  /-- RSV is not 0b0000: the bytes 0x10 to 0xFF. -/
  | reservedField
  /-- OP is 0b100 or 0b101: the bytes 0x04, 0x05, 0x0C and 0x0D. -/
  | reservedOp
  /-- W = 1 with an OP that allows only W = 0: the bytes 0x08, 0x0B, 0x0E and 0x0F. -/
  | widthNotAllowed
  deriving DecidableEq, Repr

/-- The fields of a byte (30_encoding.md R80). -/
def Cmd8.ofByte (v : Byte) : Cmd8 :=
  { rsv := v.extractLsb' 4 4, w := v.getLsbD 3, op := v.extractLsb' 0 3 }

/-- The byte of the fields: `{RSV, W, OP}` (30_encoding.md R80). -/
def Cmd8.toByte (c : Cmd8) : Byte := c.rsv ++ BitVec.ofBool c.w ++ c.op

/-- The operation that W and OP name, where they name one (30_encoding.md R81, R85). -/
def decodeOp (w : Bool) (op : Nat) : Except Illegal Instr :=
  match w, op with
  | false, 0b000 => .ok .nop
  | false, 0b001 => .ok .send1
  | true,  0b001 => .ok .send2
  | false, 0b010 => .ok .recv1
  | true,  0b010 => .ok .recv2
  | false, 0b011 => .ok .awaitcmd
  | false, 0b110 => .ok .enable
  | false, 0b111 => .ok .release
  | _,     0b100 => .error .reservedOp
  | _,     0b101 => .error .reservedOp
  | _,     _     => .error .widthNotAllowed

/-- `decode` of 30_encoding.md R85: an operation, or illegal with its group (R83). -/
def decode (v : Byte) : Except Illegal Instr :=
  let c := Cmd8.ofByte v
  if c.rsvZero then decodeOp c.w c.op.toNat else .error .reservedField

/-- W and OP of an operation (30_encoding.md R81): RSV is always 0b0000. -/
def Instr.fields : Instr → Cmd8
  | .nop      => { rsv := 0b0000, w := false, op := 0b000 }
  | .send1    => { rsv := 0b0000, w := false, op := 0b001 }
  | .recv1    => { rsv := 0b0000, w := false, op := 0b010 }
  | .awaitcmd => { rsv := 0b0000, w := false, op := 0b011 }
  | .enable   => { rsv := 0b0000, w := false, op := 0b110 }
  | .release  => { rsv := 0b0000, w := false, op := 0b111 }
  | .send2    => { rsv := 0b0000, w := true,  op := 0b001 }
  | .recv2    => { rsv := 0b0000, w := true,  op := 0b010 }

/-- The CMD byte of an operation (30_encoding.md R80 to R82). -/
def encode (i : Instr) : Byte := i.fields.toByte

/-- The one byte of an instruction that the table numbers as the `nbits` low bits of `w`: every operation is one
byte, so bits above bit 7 belong to no instruction (30_encoding.md R80; log 19). -/
def tableByte (nbits w : Nat) : Byte := BitVec.ofNat 8 (w % 2 ^ nbits)

/-- The instruction the decoder reads from the opcode table's bits. -/
def decodeTableWord (nbits w : Nat) : Option Instr :=
  match decode (tableByte nbits w) with
  | .ok i => some i
  | .error _ => none

end Sys2Proof
end

