-- ==== Sys2Proof/Config.lean ====
section
/-! DEFINITION. What the spec leaves to an implementation (00_scope.md R8) and the free values
(93_implementation_defined.md section 1). Every one is an opaque constant: nothing can be proved of its value. -/

namespace Sys2Proof

/-- The four control lines (00_scope.md R8, R13). -/
inductive ControlLine where
  | attention | dataValid | readyForData | dataAccepted
  deriving DecidableEq, Repr, Inhabited

/-- The three outbound control pins (10_state.md R26): there is no outbound ATTENTION line. -/
inductive OutLine where
  | dav | rfd | dac
  deriving DecidableEq, Repr, Inhabited

/-- The 15 inbound pins, one for each bit of a port (00_scope.md R8, 10_state.md R20). -/
inductive InboundPin where
  | din (bit : Fin 8)
  | dsize (bit : Fin 2)
  | dav | rfd | dac | atn | rst
  deriving DecidableEq, Repr, Inhabited

/-- Electrical level of an asserted line (00_scope.md R8, `LINE_POLARITY`). -/
inductive Polarity where
  | activeHigh | activeLow
  deriving DecidableEq, Repr, Inhabited

/-- Pull resistor of an inbound pin (00_scope.md R8, `PULL_CFG`). -/
inductive Pull where
  | none | up | down
  deriving DecidableEq, Repr, Inhabited

/-- The OPEN parameters of 00_scope.md R8. No rule reads any of them, and no definition of the model does. -/
structure Params where
  /-- `LINE_POLARITY`, per line (92_eei_decisions.md D3). -/
  linePolarity : ControlLine → Polarity
  /-- `SYNC_STAGES` (92_eei_decisions.md D19). -/
  syncStages : Nat
  /-- `CLK_HZ` (92_eei_decisions.md D20). -/
  clkHz : Nat
  /-- `PULL_CFG`, per inbound pin (92_eei_decisions.md D21). -/
  pullCfg : InboundPin → Pull
  /-- `REG_BASE` (20_memory.md R77). -/
  regBase : Nat
  deriving Inhabited

/-- DESIGN CHOICE (log 13): the OPEN parameters as one constant without a body. -/
opaque Config.params : Params

/-- Free value (log 9): the byte a sample step takes when the host changes DIN in the same instant, at the
`n`-th free index: any byte (93_implementation_defined.md section 1, 92_eei_decisions.md D25). -/
opaque Config.tornSample : Nat → Byte

/-- Free value (log 10): the level the host sees on an undriven outbound control pin, at the `n`-th free
index: 0 or 1 (93_implementation_defined.md section 1, 92_eei_decisions.md D21). -/
opaque Config.undrivenLine : OutLine → Nat → Bool

/-- Free value (log 10): what the host sees on the eight undriven DOUT pins, at the `n`-th free index
(93_implementation_defined.md section 1, 92_eei_decisions.md D21). -/
opaque Config.undrivenData : Nat → Byte

end Sys2Proof
end

