-- ==== Sys2Proof/Machine/State.lean ====
section
/-! DEFINITION. The machine's state as plain data. `Hpe` holds exactly the fields of 10_state.md R20; `Env` holds
what surrounds the HPE: the block reset input, the turns to come, and the controller's program. -/

namespace Sys2Proof.Machine

/-- The FSM phase, 10_state.md R30: the 18 legal codes and no other (log 12). It plays the program counter. -/
inductive Phase where
  | released | idle
  | a0WaitAtn
  | r1AssertRfd | r2WaitDav | r3DeassertRfd | r4Sample1 | r5AssertDac | r6WaitDavLow | r7Sample2 | r8DeassertDac
  | s1WaitRfd | s2Drive1 | s3AssertDav | s4WaitDac | s5Drive2 | s6DeassertDav | s7WaitDacLow
  deriving DecidableEq, Repr

/-- The cause of the most recent rejected CMD write, 10_state.md R35: the four values of REJC. -/
inductive Rejection where
  /-- 0b00: no rejection since the last accepted operation other than NOP. -/
  | none
  /-- 0b01: the CMD byte is not a legal encoding. -/
  | illegal
  /-- 0b10: a transfer was in progress. -/
  | busy
  /-- 0b11: the outputs are not enabled. -/
  | released
  deriving DecidableEq, Repr

/-- The inbound ports, driven by the host (10_state.md R20 to R24). Levels are logical (00_scope.md R9). -/
structure InPorts where
  din : Byte
  dsize : BitVec 2
  dav : Bool
  rfd : Bool
  dac : Bool
  atn : Bool
  /-- The host's reset-sense line: it resets nothing (10_state.md R24). -/
  rst : Bool
  deriving DecidableEq, Repr

/-- The output latches (10_state.md R25, R26). -/
structure OutLatches where
  dout : Byte
  dav : Bool
  rfd : Bool
  dac : Bool
  deriving DecidableEq, Repr

/-- The complete state of the HPE: exactly the fields of 10_state.md R20. -/
structure Hpe where
  /-- `in.*`, R21 to R24. -/
  inp : InPorts
  /-- `out.*`, R25 and R26. -/
  out : OutLatches
  /-- Output enable, R27. -/
  oe : Bool
  /-- R28. -/
  tx0 : Byte
  /-- R28. -/
  tx1 : Byte
  /-- R29. -/
  rx0 : Byte
  /-- R29. -/
  rx1 : Byte
  /-- R30. -/
  phase : Phase
  /-- Width of the current operation, two bytes when true, R31. -/
  w : Bool
  /-- Hidden holding latch of byte 1, R32. -/
  txl0 : Byte
  /-- Hidden holding latch of byte 2, R32. -/
  txl1 : Byte
  /-- R33. -/
  done : Bool
  /-- R34. -/
  abt : Bool
  /-- R35. -/
  rejc : Rejection
  deriving DecidableEq, Repr

/-- A host step: one inbound port set to a value (60_exceptions.md R170). -/
inductive PortChange where
  | din (v : Byte)
  | dsize (v : BitVec 2)
  | dav (b : Bool)
  | rfd (b : Bool)
  | dac (b : Bool)
  | atn (b : Bool)
  | rst (b : Bool)
  deriving DecidableEq, Repr

/-- A line of a controller program (30_encoding.md R87, R88). An operation's name stands for `wr` of its CMD byte
to address 0x0; the other pseudo-instructions are lists of lines (Machine/Assembler.lean). -/
inductive ProgLine where
  /-- `WR addr, byte`: one `RegWrite`. -/
  | wr (a : RegAddr) (v : Byte)
  /-- `RD addr -> name`: one `RegRead`, bound to a name (a number here). -/
  | rd (a : RegAddr) (name : Nat)
  /-- `POLL addr, mask, val`: reads until the masked byte is `val`; one `RegRead` a turn. -/
  | poll (a : RegAddr) (mask val : Byte)
  deriving DecidableEq, Repr

/-- Who moves next (00_scope.md R12, 60_exceptions.md R166). -/
inductive Turn where
  /-- The engine takes its step, if it has one (60_exceptions.md R169). -/
  | engine
  /-- The host changes one inbound port (60_exceptions.md R170). -/
  | host (c : PortChange)
  /-- The controller performs its next access (60_exceptions.md R172). -/
  | controller
  /-- The block reset input is driven to a level (70_reset_and_hazards.md R190). -/
  | rst (level : Bool)
  /-- The host changes DIN in the same instant as the engine samples it (92_eei_decisions.md D25; log 9). -/
  | sampleRace (v : Byte)
  deriving DecidableEq, Repr

/-- What surrounds the HPE. Only `rst` is the spec's (70_reset_and_hazards.md R190); the rest are the model's own
fields (log 2, 6, 11). -/
structure Env where
  /-- The level of the block reset input `rst`. -/
  rst : Bool
  /-- The turns to come, first one first. -/
  schedule : List Turn
  /-- The lines of the controller's program still to be performed, first one first. -/
  program : List ProgLine
  /-- What the controller's RD lines read, newest first. -/
  names : List (Nat × Byte)
  /-- The index of the free values: every step advances it. -/
  freeIndex : Nat
  deriving DecidableEq, Repr

/-- The machine: the HPE and what surrounds it. -/
structure State where
  hpe : Hpe
  env : Env
  deriving DecidableEq, Repr

/-- The HPE raises no exception and takes no trap, and no behaviour of it is undefined (60_exceptions.md R163,
30_encoding.md R83; log 18): no fault reason exists, so no constructor. -/
inductive Fault where
  deriving DecidableEq, Repr

/-- Why a step has no meaning. -/
inductive Refusal where
  /-- Raised by an arm of `exec` whose instruction has no meaning yet (safe). No arm of this model raises it. -/
  | notModelled (mnemonic : String)
  deriving DecidableEq, Repr

/-- What a step answers. -/
abbrev Result := Host.Outcome State Fault Refusal

/-- The HPE right after reset (10_state.md R50). The inbound ports are not reset; their values here are the
model's choice (log 1). -/
def Hpe.reset : Hpe where
  inp := { din := 0x00, dsize := 0b00, dav := false, rfd := false, dac := false, atn := false, rst := false }
  out := { dout := 0x00, dav := false, rfd := false, dac := false }
  oe := false
  tx0 := 0x00
  tx1 := 0x00
  rx0 := 0x00
  rx1 := 0x00
  phase := .released
  w := false
  txl0 := 0x00
  txl1 := 0x00
  done := false
  abt := false
  rejc := .none

/-- The machine right after reset: `rst` released, nothing scheduled, no program loaded (log 14). -/
def State.reset : State where
  hpe := Hpe.reset
  env := { rst := false, schedule := [], program := [], names := [], freeIndex := 0 }

/-- The machine with another HPE state. -/
def State.withHpe (s : State) (h : Hpe) : State := { s with hpe := h }

end Sys2Proof.Machine
end

