-- ==== Sys2Proof/Machine/Flags.lean ====
section
/-! DEFINITION. The codes of the phases and rejections, the derived status bits, and the layouts of the read-only
registers that show them (10_state.md R30, R35 to R41). -/

namespace Sys2Proof.Machine

/-- The code of a phase: the table of 10_state.md R30. -/
def Phase.code : Phase → BitVec 5
  | .released      => 0x00
  | .idle          => 0x01
  | .a0WaitAtn     => 0x02
  | .r1AssertRfd   => 0x08
  | .r2WaitDav     => 0x09
  | .r3DeassertRfd => 0x0A
  | .r4Sample1     => 0x0B
  | .r5AssertDac   => 0x0C
  | .r6WaitDavLow  => 0x0D
  | .r7Sample2     => 0x0E
  | .r8DeassertDac => 0x0F
  | .s1WaitRfd     => 0x10
  | .s2Drive1      => 0x11
  | .s3AssertDav   => 0x12
  | .s4WaitDac     => 0x13
  | .s5Drive2      => 0x14
  | .s6DeassertDav => 0x15
  | .s7WaitDacLow  => 0x16

/-- The value of REJC: the table of 10_state.md R35. -/
def Rejection.code : Rejection → BitVec 2
  | .none     => 0b00
  | .illegal  => 0b01
  | .busy     => 0b10
  | .released => 0b11

/-- A phase in which an operation is in progress: neither RELEASED nor IDLE (10_state.md R36). -/
def Phase.busy : Phase → Bool
  | .released | .idle => false
  | .a0WaitAtn
  | .r1AssertRfd | .r2WaitDav | .r3DeassertRfd | .r4Sample1 | .r5AssertDac | .r6WaitDavLow | .r7Sample2 | .r8DeassertDac
  | .s1WaitRfd | .s2Drive1 | .s3AssertDav | .s4WaitDac | .s5Drive2 | .s6DeassertDav | .s7WaitDacLow => true

/-- BUSY, derived from the phase (10_state.md R36). -/
def Hpe.busy (h : Hpe) : Bool := h.phase.busy

/-- EN reads OE (10_state.md R37). -/
def Hpe.en (h : Hpe) : Bool := h.oe

/-- `STATUS = {0b00, REJC, EN, ABT, DONE, BUSY}` (10_state.md R38). -/
def Hpe.status (h : Hpe) : Byte :=
  0b00#2 ++ h.rejc.code ++ BitVec.ofBool h.en ++ BitVec.ofBool h.abt ++ BitVec.ofBool h.done ++ BitVec.ofBool h.busy

/-- `LINES_IN = {0b0, in.DSIZE, in.RST, in.ATN, in.DAC, in.RFD, in.DAV}` (10_state.md R39). -/
def Hpe.linesIn (h : Hpe) : Byte :=
  0b0#1 ++ h.inp.dsize ++ BitVec.ofBool h.inp.rst ++ BitVec.ofBool h.inp.atn ++ BitVec.ofBool h.inp.dac
    ++ BitVec.ofBool h.inp.rfd ++ BitVec.ofBool h.inp.dav

/-- `LINES_OUT = {0b0000, OE, out.DAC, out.RFD, out.DAV}` (10_state.md R40): the latches, not the pins. -/
def Hpe.linesOut (h : Hpe) : Byte :=
  0b0000#4 ++ BitVec.ofBool h.oe ++ BitVec.ofBool h.out.dac ++ BitVec.ofBool h.out.rfd ++ BitVec.ofBool h.out.dav

/-- `PHASE = {0b00, W, phase}` (10_state.md R41). -/
def Hpe.phaseReg (h : Hpe) : Byte := 0b00#2 ++ BitVec.ofBool h.w ++ h.phase.code

/-- What every accepted operation but NOP and RELEASE does to the status flags: DONE, ABT and REJC become 0
(10_state.md R33 to R35). -/
def Hpe.clearStatus (h : Hpe) : Hpe := { h with done := false, abt := false, rejc := .none }

/-- `complete()`, the end of a transfer: `DONE <- 1; phase <- IDLE` (00_scope.md R10). -/
def Hpe.complete (h : Hpe) : Hpe := { h with done := true, phase := .idle }

end Sys2Proof.Machine
end

