-- ==== Sys2Proof/Machine/Operands.lean ====
section
/-! DEFINITION. The controller's register addresses and register reads (10_state.md R45, 20_memory.md R61), and
where a transfer takes its operands (30_encoding.md R86). -/

namespace Sys2Proof.Machine

/-! The register map, 10_state.md R45. Addresses 0xB to 0xF are reserved. -/

def Reg.cmd      : RegAddr := 0x0
def Reg.status   : RegAddr := 0x1
def Reg.tx0      : RegAddr := 0x2
def Reg.tx1      : RegAddr := 0x3
def Reg.rx0      : RegAddr := 0x4
def Reg.rx1      : RegAddr := 0x5
def Reg.linesIn  : RegAddr := 0x6
def Reg.din      : RegAddr := 0x7
def Reg.linesOut : RegAddr := 0x8
def Reg.phase    : RegAddr := 0x9
def Reg.dout     : RegAddr := 0xA

/-- `RegRead(a)`, 20_memory.md R61: a byte of the HPE, and no change of it. -/
def regRead (a : RegAddr) (h : Hpe) : Byte :=
  match a.toNat with
  | 0x0 => 0x00
  | 0x1 => h.status
  | 0x2 => h.tx0
  | 0x3 => h.tx1
  | 0x4 => h.rx0
  | 0x5 => h.rx1
  | 0x6 => h.linesIn
  | 0x7 => h.inp.din
  | 0x8 => h.linesOut
  | 0x9 => h.phaseReg
  | 0xA => h.out.dout
  | _   => 0x00

/-- The operands of a SEND: TX0 and TX1 are copied to TXL0 and TXL1 at accept, for both widths
(10_state.md R32, 20_memory.md R74, 30_encoding.md R86). -/
def Hpe.latchSend (h : Hpe) : Hpe := { h with txl0 := h.tx0, txl1 := h.tx1 }

/-- The width operand: W is loaded when a transfer is accepted (10_state.md R31). -/
def Hpe.setWidth (h : Hpe) (w : Bool) : Hpe := { h with w := w }

/-- The number of bytes of a transfer, `W + 1` (30_encoding.md R86). -/
def byteCount (w : Bool) : Nat := w.toNat + 1

end Sys2Proof.Machine
end

