-- ==== Sys2Proof/Machine/Ops.lean ====
section
/-! DEFINITION. The operations that several meanings share. The HPE has no memory (20_memory.md R60) and takes no
exception (60_exceptions.md R163): in the place of taking one stands the rejection of a CMD write. -/

namespace Sys2Proof.Machine

/-- `phase <- P` (00_scope.md R10). -/
def Hpe.goTo (h : Hpe) (p : Phase) : Hpe := { h with phase := p }

/-- `reject(code)`: REJC takes the code and nothing else changes (60_exceptions.md R161). -/
def Hpe.reject (h : Hpe) (c : Rejection) : Hpe := { h with rejc := c }

/-- A rejected CMD write, the one operation of every rejection (60_exceptions.md R160, R161). -/
def State.reject (s : State) (c : Rejection) : State := s.withHpe (s.hpe.reject c)

/-- The three handshake latches at their idle level (10_state.md R26). DOUT keeps its value (R25). -/
def Hpe.idleLatches (h : Hpe) : Hpe := { h with out := { h.out with dav := false, rfd := false, dac := false } }

/-- `OE <- v` (10_state.md R27). -/
def Hpe.setOe (h : Hpe) (b : Bool) : Hpe := { h with oe := b }

/-- A SEND, RECV or AWAITCMD write: rejected in RELEASED, rejected during a transfer, and else accepted, with the
status flags cleared (60_exceptions.md R160). `accept` is what the operation itself sets. -/
def startTransfer (accept : Hpe → Hpe) (s : State) : Result :=
  if s.hpe.phase = .released then .next (s.reject .released)
  else if s.hpe.phase ≠ .idle then .next (s.reject .busy)
  else .next (s.withHpe (accept s.hpe.clearStatus))

/-- `wait until c` before a step: while `c` is false the engine has no step (00_scope.md R10). -/
def waitUntil (c : Bool) (h : Hpe) : Option Hpe := if c then some h else none

/-! The writes of the output latches: `out.X <- v` (00_scope.md R10). -/

def Hpe.setDout (h : Hpe) (v : Byte) : Hpe := { h with out := { h.out with dout := v } }
def Hpe.setDav (h : Hpe) (b : Bool) : Hpe := { h with out := { h.out with dav := b } }
def Hpe.setRfd (h : Hpe) (b : Bool) : Hpe := { h with out := { h.out with rfd := b } }
def Hpe.setDac (h : Hpe) (b : Bool) : Hpe := { h with out := { h.out with dac := b } }

/-- A host step: one inbound port changes (60_exceptions.md R170). -/
def InPorts.set (p : InPorts) : PortChange → InPorts
  | .din v   => { p with din := v }
  | .dsize v => { p with dsize := v }
  | .dav b   => { p with dav := b }
  | .rfd b   => { p with rfd := b }
  | .dac b   => { p with dac := b }
  | .atn b   => { p with atn := b }
  | .rst b   => { p with rst := b }

/-- The HPE after a host step. -/
def Hpe.setPort (h : Hpe) (c : PortChange) : Hpe := { h with inp := h.inp.set c }

/-- Reset: every stored element takes its reset value, and the inbound ports keep theirs (10_state.md R50). -/
def Hpe.resetStored (h : Hpe) : Hpe := { Hpe.reset with inp := h.inp }

end Sys2Proof.Machine
end

