-- ==== Sys2Proof/Machine/Control.lean ====
section
/-! DEFINITION. The control family, 42_control.md: NOP, ENABLE and RELEASE. Each takes effect completely in the
step of its CMD write (42_control.md R140). -/

namespace Sys2Proof.Machine

/-- NOP, CMD 0x00: no state change, in every phase (42_control.md R141). -/
def execNop (s : State) : Result := .next s

/-- ENABLE, CMD 0x06: idle levels first, then the pins are driven, in one step (42_control.md R142). -/
def execEnable (s : State) : Result :=
  if s.hpe.busy then .next (s.reject .busy)
  else .next (s.withHpe ((s.hpe.clearStatus.idleLatches.setOe true).goTo .idle))

/-- What RELEASE leaves (42_control.md R143): ABT says whether an operation was stopped. -/
def Hpe.release (h : Hpe) : Hpe :=
  { (h.clearStatus.idleLatches.setOe false).goTo .released with abt := h.busy }

/-- RELEASE, CMD 0x07: accepted in every phase (42_control.md R143). -/
def execRelease (s : State) : Result := .next (s.withHpe s.hpe.release)

end Sys2Proof.Machine
end

