-- ==== Sys2Proof/Machine/Receive.lean ====
section
/-! DEFINITION. The receive family and command arrival, 41_receive.md: what RECV1, RECV2 and AWAITCMD do when
their CMD byte is written (R120 to R122), and the engine's phases A0 and R1 to R8 (R123 to R131). -/

namespace Sys2Proof.Machine

/-- The accept of a RECV of width `w` (41_receive.md R120, R121). -/
def Hpe.acceptRecv (w : Bool) (h : Hpe) : Hpe := (h.setWidth w).goTo .r1AssertRfd

/-- The accept of AWAITCMD (41_receive.md R122). -/
def Hpe.acceptAwait (h : Hpe) : Hpe := (h.setWidth false).goTo .a0WaitAtn

/-- RECV1, CMD 0x02 (41_receive.md R120). -/
def execRecv1 (s : State) : Result := startTransfer (Hpe.acceptRecv false) s

/-- RECV2, CMD 0x0A (41_receive.md R121). -/
def execRecv2 (s : State) : Result := startTransfer (Hpe.acceptRecv true) s

/-- AWAITCMD, CMD 0x03 (41_receive.md R122). -/
def execAwaitcmd (s : State) : Result := startTransfer Hpe.acceptAwait s

/-- A0_WAIT_ATN (41_receive.md R123). -/
def stepA0 (h : Hpe) : Option Hpe := waitUntil h.inp.atn (h.goTo .r1AssertRfd)

/-- R1_ASSERT_RFD (41_receive.md R124). -/
def stepR1 (h : Hpe) : Option Hpe := some ((h.setRfd true).goTo .r2WaitDav)

/-- R2_WAIT_DAV (41_receive.md R125). -/
def stepR2 (h : Hpe) : Option Hpe := waitUntil h.inp.dav (h.goTo .r3DeassertRfd)

/-- R3_DEASSERT_RFD (41_receive.md R126). -/
def stepR3 (h : Hpe) : Option Hpe := some ((h.setRfd false).goTo .r4Sample1)

/-- R4_SAMPLE1 with the byte that the sample takes (41_receive.md R127). -/
def sampleByte1 (v : Byte) (h : Hpe) : Hpe := { h with rx0 := v }.goTo .r5AssertDac

/-- R4_SAMPLE1: all eight bits of `in.DIN` in one step (41_receive.md R127). -/
def stepR4 (h : Hpe) : Option Hpe := some (sampleByte1 h.inp.din h)

/-- R5_ASSERT_DAC (41_receive.md R128). -/
def stepR5 (h : Hpe) : Option Hpe := some ((h.setDac true).goTo .r6WaitDavLow)

/-- R6_WAIT_DAV_LOW (41_receive.md R129). -/
def stepR6 (h : Hpe) : Option Hpe :=
  waitUntil (!h.inp.dav) (h.goTo (if h.w then .r7Sample2 else .r8DeassertDac))

/-- R7_SAMPLE2 with the byte that the sample takes (41_receive.md R130). -/
def sampleByte2 (v : Byte) (h : Hpe) : Hpe := { h with rx1 := v }.goTo .r8DeassertDac

/-- R7_SAMPLE2 (41_receive.md R130). -/
def stepR7 (h : Hpe) : Option Hpe := some (sampleByte2 h.inp.din h)

/-- R8_DEASSERT_DAC, which completes the RECV or AWAITCMD (41_receive.md R131). -/
def stepR8 (h : Hpe) : Option Hpe := some (h.setDac false).complete

end Sys2Proof.Machine
end

