-- ==== Sys2Proof/Machine/Send.lean ====
section
/-! DEFINITION. The send family, 40_send.md: what SEND1 and SEND2 do when their CMD byte is written (R100, R101),
and the engine's phases S1 to S7 (R103 to R109). A phase rule answers `none` while the engine is held. -/

namespace Sys2Proof.Machine

/-- The accept of a SEND of width `w` (40_send.md R100, R101). -/
def Hpe.acceptSend (w : Bool) (h : Hpe) : Hpe := (h.latchSend.setWidth w).goTo .s1WaitRfd

/-- SEND1, CMD 0x01 (40_send.md R100). -/
def execSend1 (s : State) : Result := startTransfer (Hpe.acceptSend false) s

/-- SEND2, CMD 0x09 (40_send.md R101). -/
def execSend2 (s : State) : Result := startTransfer (Hpe.acceptSend true) s

/-- S1_WAIT_RFD (40_send.md R103). -/
def stepS1 (h : Hpe) : Option Hpe := waitUntil h.inp.rfd (h.goTo .s2Drive1)

/-- S2_DRIVE1 (40_send.md R104). -/
def stepS2 (h : Hpe) : Option Hpe := some ((h.setDout h.txl0).goTo .s3AssertDav)

/-- S3_ASSERT_DAV (40_send.md R105). -/
def stepS3 (h : Hpe) : Option Hpe := some ((h.setDav true).goTo .s4WaitDac)

/-- S4_WAIT_DAC (40_send.md R106). -/
def stepS4 (h : Hpe) : Option Hpe :=
  waitUntil h.inp.dac (h.goTo (if h.w then .s5Drive2 else .s6DeassertDav))

/-- S5_DRIVE2 (40_send.md R107): `in.DAC` is not looked at. -/
def stepS5 (h : Hpe) : Option Hpe := some ((h.setDout h.txl1).goTo .s6DeassertDav)

/-- S6_DEASSERT_DAV (40_send.md R108). -/
def stepS6 (h : Hpe) : Option Hpe := some ((h.setDav false).goTo .s7WaitDacLow)

/-- S7_WAIT_DAC_LOW, which completes the SEND (40_send.md R109). -/
def stepS7 (h : Hpe) : Option Hpe := waitUntil (!h.inp.dac) h.complete

end Sys2Proof.Machine
end

