-- ==== Sys2Proof/Machine/Dispatch.lean ====
section
/-! DEFINITION. What the CMD write of a legal byte does, one arm per operation (60_exceptions.md R160). -/

namespace Sys2Proof.Machine

def exec (i : Instr) (s : State) : Host.Outcome State Fault Refusal :=
  match i with
  | .nop => Sys2Proof.Machine.execNop s
  | .send1 => Sys2Proof.Machine.execSend1 s
  | .recv1 => Sys2Proof.Machine.execRecv1 s
  | .awaitcmd => Sys2Proof.Machine.execAwaitcmd s
  | .enable => Sys2Proof.Machine.execEnable s
  | .release => Sys2Proof.Machine.execRelease s
  | .send2 => Sys2Proof.Machine.execSend2 s
  | .recv2 => Sys2Proof.Machine.execRecv2 s

end Sys2Proof.Machine
end

