-- ==== Sys2Proof/Machine/Controller.lean ====
section
/-! DEFINITION. The controller's accesses (20_memory.md R61 to R63) and its program (30_encoding.md R87, R88). -/

namespace Sys2Proof.Machine

/-- `CmdWrite(v)`: the write of a byte to CMD, one atomic step (60_exceptions.md R160). -/
def cmdWrite (v : Byte) (s : State) : Result :=
  match decode v with
  | .error _ => .next (s.reject .illegal)
  | .ok i => exec i s

/-- `RegWrite(a, v)` (20_memory.md R62). While `rst` is asserted it has no effect (70_reset_and_hazards.md R190). -/
def regWrite (a : RegAddr) (v : Byte) (s : State) : Result :=
  if s.env.rst then .next s
  else match a.toNat with
    | 0x0 => cmdWrite v s
    | 0x2 => .next (s.withHpe { s.hpe with tx0 := v })
    | 0x3 => .next (s.withHpe { s.hpe with tx1 := v })
    | _   => .next s

/-- The program moves on to the lines `ls`. -/
def State.withProgram (s : State) (ls : List ProgLine) : State := { s with env := { s.env with program := ls } }

/-- `name <- v` of an RD line. -/
def State.bindName (s : State) (x : Nat) (v : Byte) : State :=
  { s with env := { s.env with names := (x, v) :: s.env.names } }

/-- The controller's turn: its next access (20_memory.md R73). A POLL line reads once a turn and stays until the
masked byte is the awaited one (30_encoding.md R88). A controller with no line left does nothing (log 4). -/
def controllerTurn (s : State) : Result :=
  match s.env.program with
  | [] => .next s
  | .wr a v :: ls => regWrite a v (s.withProgram ls)
  | .rd a x :: ls => .next ((s.withProgram ls).bindName x (regRead a s.hpe))
  | .poll a mask val :: ls => if regRead a s.hpe &&& mask = val then .next (s.withProgram ls) else .next s

end Sys2Proof.Machine
end

