-- ==== Sys2Proof/Machine/Engine.lean ====
section
/-! DEFINITION. The engine: its step in each phase (10_state.md R30, 60_exceptions.md R169). -/

namespace Sys2Proof.Machine

/-- The engine's step, where it has one (60_exceptions.md R169): none in IDLE and RELEASED, none while held. -/
def engineStep (h : Hpe) : Option Hpe :=
  match h.phase with
  | .released      => none
  | .idle          => none
  | .a0WaitAtn     => stepA0 h
  | .r1AssertRfd   => stepR1 h
  | .r2WaitDav     => stepR2 h
  | .r3DeassertRfd => stepR3 h
  | .r4Sample1     => stepR4 h
  | .r5AssertDac   => stepR5 h
  | .r6WaitDavLow  => stepR6 h
  | .r7Sample2     => stepR7 h
  | .r8DeassertDac => stepR8 h
  | .s1WaitRfd     => stepS1 h
  | .s2Drive1      => stepS2 h
  | .s3AssertDav   => stepS3 h
  | .s4WaitDac     => stepS4 h
  | .s5Drive2      => stepS5 h
  | .s6DeassertDav => stepS6 h
  | .s7WaitDacLow  => stepS7 h

/-- The engine's turn: a held or resting engine re-tests its level and changes nothing (60_exceptions.md R179;
log 4). -/
def engineTurn (h : Hpe) : Hpe := (engineStep h).getD h

/-- The engine samples while the host changes DIN to `v` in the same instant: the byte taken is `free`
(93_implementation_defined.md section 1; log 9). In any other phase this is only the host's change.
DESIGN CHOICE (log 9), safe: the byte is free also where `v` is the value DIN already holds, for which the spec does
not speak of a change. -/
def sampleRaceTurn (v free : Byte) (h : Hpe) : Hpe :=
  match h.phase with
  | .r4Sample1 => (sampleByte1 free h).setPort (.din v)
  | .r7Sample2 => (sampleByte2 free h).setPort (.din v)
  | .released | .idle
  | .a0WaitAtn
  | .r1AssertRfd | .r2WaitDav | .r3DeassertRfd | .r5AssertDac | .r6WaitDavLow | .r8DeassertDac
  | .s1WaitRfd | .s2Drive1 | .s3AssertDav | .s4WaitDac | .s5Drive2 | .s6DeassertDav | .s7WaitDacLow =>
    h.setPort (.din v)

end Sys2Proof.Machine
end

