-- ==== Sys2Proof/Machine/Agents.lean ====
section
/-! DEFINITION. One turn of one agent (00_scope.md R12, 20_memory.md R72, 60_exceptions.md R166). -/

namespace Sys2Proof.Machine

/-- Who moves next: the head of the schedule, and the engine when the schedule is used up, which is its weak
fairness (60_exceptions.md R173; log 3). -/
def State.nextTurn (s : State) : Turn := s.env.schedule.headD .engine

/-- The turn is taken from the schedule, and the free values of the next step are new ones. -/
def State.tick (s : State) : State :=
  { s with env := { s.env with schedule := s.env.schedule.tail, freeIndex := s.env.freeIndex + 1 } }

/-- While `rst` is asserted every stored element takes its reset value (70_reset_and_hazards.md R190). -/
def State.holdReset (s : State) : State := if s.env.rst then s.withHpe s.hpe.resetStored else s

/-- The block reset input is driven to a level: from its assertion the HPE is reset, from any phase
(70_reset_and_hazards.md R190). -/
def State.driveRst (s : State) (level : Bool) : State :=
  { s with hpe := if level then s.hpe.resetStored else s.hpe, env := { s.env with rst := level } }

/-- One turn. `holdReset` comes first, so that while `rst` is asserted no engine step and no controller write has
an effect (60_exceptions.md R167, 70_reset_and_hazards.md R190): the engine has no step in RELEASED, and
`regWrite` looks at `rst`. A host step changes its port also then, since the ports stay live (log 7). -/
def turnOf (t : Turn) (s : State) : Result :=
  match t with
  | .engine       => .next (s.withHpe (engineTurn s.hpe))
  | .host c       => .next (s.withHpe (s.hpe.setPort c))
  | .controller   => controllerTurn s
  | .rst level    => .next (s.driveRst level)
  | .sampleRace v => .next (s.withHpe (sampleRaceTurn v (Config.tornSample s.env.freeIndex) s.hpe))

/-- The turn of an agent, under a reset that may be asserted. -/
def takeTurn (t : Turn) (s : State) : Result := turnOf t s.holdReset

/-- The controller's next line is the write of this byte to CMD. -/
def State.loadCmd (s : State) (v : Byte) : State := s.withProgram (.wr Reg.cmd v :: s.env.program)

/-- The next turn is the controller's, with `rst` released. -/
def State.scheduleController (s : State) : State :=
  { s with env := { s.env with rst := false, schedule := .controller :: s.env.schedule } }

end Sys2Proof.Machine
end

