-- ==== Sys2Proof/Machine/Step.lean ====
section
/-! DEFINITION. One step of the machine, and how a CMD byte is placed so that the very next step writes it. -/

namespace Sys2Proof.Machine

/-- One step: the next agent takes its turn (20_memory.md R72). -/
def step (s : State) : Host.Outcome State Fault Refusal := takeTurn s.nextTurn s.tick

/-- The state in which the next step is the controller's write of the byte to CMD: the HPE has no program memory
and fetches nothing (20_memory.md R74), so the byte stands as the next line of the controller's program, and the
next turn is the controller's (log 5). -/
def State.withFetchWord (s : State) (nbits w : Nat) : State := (s.loadCmd (tableByte nbits w)).scheduleController

end Sys2Proof.Machine
end

