-- ==== Sys2Proof/Machine/Assembler.lean ====
section
/-! DEFINITION. The controller's program syntax as lists of lines (30_encoding.md R87, R88), and what the spec asks
of a controller: boot, order of one operation, shutdown, and byte order (70_reset_and_hazards.md R193 to R195,
20_memory.md R70, R71). No rule of the engine reads any of it. -/

namespace Sys2Proof.Machine

/-- An operation's name: `WR 0x0, <CMD byte>` (30_encoding.md R87). -/
def asmOp (i : Instr) : ProgLine := .wr Reg.cmd (encode i)

/-- `WAITDONE`: `POLL STATUS, 0x03, 0x02` (30_encoding.md R88). -/
def asmWaitDone : ProgLine := .poll Reg.status 0x03 0x02

/-- `POLL STATUS, 0x30, 0x00`: the check that a CMD write was accepted (30_encoding.md R88). -/
def asmCheckAccepted : ProgLine := .poll Reg.status 0x30 0x00

/-- `PUT1 b` (30_encoding.md R88). -/
def asmPut1 (b : Byte) : List ProgLine := [.wr Reg.tx0 b, asmOp .send1, asmWaitDone]

/-- `PUT2 b1, b2` (30_encoding.md R88). -/
def asmPut2 (b1 b2 : Byte) : List ProgLine := [.wr Reg.tx0 b1, .wr Reg.tx1 b2, asmOp .send2, asmWaitDone]

/-- `GET1 -> x` (30_encoding.md R88). -/
def asmGet1 (x : Nat) : List ProgLine := [asmOp .recv1, asmWaitDone, .rd Reg.rx0 x]

/-- `GET2 -> x, y` (30_encoding.md R88). -/
def asmGet2 (x y : Nat) : List ProgLine := [asmOp .recv2, asmWaitDone, .rd Reg.rx0 x, .rd Reg.rx1 y]

/-- `GETCMD -> c` (30_encoding.md R88). -/
def asmGetCmd (c : Nat) : List ProgLine := [asmOp .awaitcmd, asmWaitDone, .rd Reg.rx0 c]

/-- Boot (70_reset_and_hazards.md R193): ENABLE, then check `STATUS[5:4] = 0b00` and `STATUS[3] = 1`. -/
def asmBoot : List ProgLine := [asmOp .enable, .poll Reg.status 0x38 0x08]

/-- Shutdown (70_reset_and_hazards.md R195). -/
def asmShutdown : List ProgLine := [asmOp .release]

/-- A byte stream in 1-byte mode. -/
def asmPutSlow : List Byte → List ProgLine
  | [] => []
  | b :: bs => asmPut1 b ++ asmPutSlow bs

/-- A byte stream in fast mode: the lower-indexed byte of each pair is byte 1 (20_memory.md R70). A last byte
without a partner goes in 1-byte mode. -/
def asmPutFast : List Byte → List ProgLine
  | [] => []
  | [b] => asmPut1 b
  | b1 :: b2 :: bs => asmPut2 b1 b2 ++ asmPutFast bs

/-- A 16-bit integer above the engine: two 1-byte transfers, most significant byte first (20_memory.md R71). -/
def asmPutWord (v : BitVec 16) : List ProgLine := asmPut1 (v.extractLsb' 8 8) ++ asmPut1 (v.extractLsb' 0 8)

end Sys2Proof.Machine
end

