-- ==== Sys2Proof/Machine/Pins.lean ====
section
/-! DEFINITION. The outbound pins and what the host sees on them (10_state.md R27). -/

namespace Sys2Proof.Machine

/-- The outbound pins; `none` is `Z`, not driven (10_state.md R27, 92_eei_decisions.md D29; log 10). -/
structure Pins where
  dout : Option Byte
  dav : Option Bool
  rfd : Option Bool
  dac : Option Bool
  deriving DecidableEq, Repr

/-- Each pin carries its latch when OE = 1, and is not driven when OE = 0 (10_state.md R27). -/
def Hpe.pins (h : Hpe) : Pins :=
  if h.oe then { dout := some h.out.dout, dav := some h.out.dav, rfd := some h.out.rfd, dac := some h.out.dac }
  else { dout := none, dav := none, rfd := none, dac := none }

/-- One of the outbound control pins. -/
def Pins.line (p : Pins) : OutLine → Option Bool
  | .dav => p.dav
  | .rfd => p.rfd
  | .dac => p.dac

/-- The level the host sees on an outbound control pin: the latch where it is driven, and any level where it is
not (93_implementation_defined.md section 1; log 10). -/
def State.hostSeesLine (s : State) (l : OutLine) : Bool :=
  (s.hpe.pins.line l).getD (Config.undrivenLine l s.env.freeIndex)

/-- What the host sees on the DOUT pins (93_implementation_defined.md section 1; log 10). -/
def State.hostSeesData (s : State) : Byte := s.hpe.pins.dout.getD (Config.undrivenData s.env.freeIndex)

end Sys2Proof.Machine
end

