-- ==== Sys2Proof/Machine/Ending.lean ====
section
/-! DEFINITION. Where the run of a controller program ends, and its end state (60_exceptions.md R174). -/

namespace Sys2Proof.Machine

/-- The two conditions of 60_exceptions.md R174: the last line of the program has been performed, and the phase is
IDLE or RELEASED. -/
def State.ended (s : State) : Bool := s.env.program.isEmpty && !s.hpe.busy

/-- The first state of the run from `s` that meets both conditions, if it comes within `n` steps
(60_exceptions.md R174). -/
def runEnd : Nat → State → Option State
  | 0, s => if s.ended then some s else none
  | n + 1, s =>
    if s.ended then some s
    else
      match step s with
      | .next t => runEnd n t
      | .fault _ => none
      | .refused _ => none

/-- The run from `s` ends at `u`. -/
def EndsAt (s u : State) : Prop := ∃ n, runEnd n s = some u

/-- An end state (60_exceptions.md R174): the register values of 20_memory.md R61, in address order, together with
the pin values of 10_state.md R27. -/
structure EndState where
  registers : List Byte
  pins : Pins
  deriving DecidableEq, Repr

/-- The registers and pins of a state. -/
def State.endState (s : State) : EndState :=
  { registers := (List.range 16).map fun a => regRead (BitVec.ofNat 4 a) s.hpe, pins := s.hpe.pins }

/-- The end state of the run from `s`, if it ends within `n` steps. -/
def runResult (n : Nat) (s : State) : Option EndState := (runEnd n s).map State.endState

end Sys2Proof.Machine
end

