-- ==== Sys2Proof/Safety.lean ====
section
/-! DEFINITION. What the statements speak of: the states the machine stays within (10_state.md R46 to R48), the
events a transfer shows (40_send.md R112, 41_receive.md R134), the run of a transfer, a host that keeps its duties
(60_exceptions.md R171). -/

namespace Sys2Proof.Machine

/-- The three output latches (DAV, RFD, DAC) on entry to a phase: the table of 10_state.md R47. -/
def Phase.latches : Phase → Bool × Bool × Bool
  | .released | .idle | .a0WaitAtn => (false, false, false)
  | .s1WaitRfd | .s2Drive1 | .s3AssertDav => (false, false, false)
  | .s4WaitDac | .s5Drive2 | .s6DeassertDav => (true, false, false)
  | .s7WaitDacLow => (false, false, false)
  | .r1AssertRfd => (false, false, false)
  | .r2WaitDav | .r3DeassertRfd => (false, true, false)
  | .r4Sample1 | .r5AssertDac => (false, false, false)
  | .r6WaitDavLow | .r7Sample2 | .r8DeassertDac => (false, false, true)

/-- The invariant of the HPE. -/
structure Hpe.Inv (h : Hpe) : Prop where
  /-- 10_state.md R47 (and R46). -/
  latches : (h.out.dav, h.out.rfd, h.out.dac) = h.phase.latches
  /-- 10_state.md R48. -/
  released_iff : h.oe = false ↔ h.phase = .released
  /-- S5 is reached only when W = 1 (40_send.md R107). -/
  s5_two : h.phase = .s5Drive2 → h.w = true
  /-- R7 is reached only when W = 1 (41_receive.md R130). -/
  r7_two : h.phase = .r7Sample2 → h.w = true
  /-- W is already 0 in A0 (41_receive.md R123). -/
  a0_one : h.phase = .a0WaitAtn → h.w = false
  /-- DONE is set with `phase <- IDLE` and cleared by every accept (10_state.md R33). -/
  done_idle : h.done = true → h.phase = .idle
  /-- ABT is set by RELEASE and cleared by ENABLE (10_state.md R34). -/
  abt_released : h.abt = true → h.phase = .released
  /-- REJC = RELEASED is recorded only in RELEASED, and ENABLE, the only way out, clears it (10_state.md R35). -/
  rejc_released : h.rejc = .released → h.phase = .released

/-- The invariant of the machine: that of the HPE, and reset values while `rst` is asserted
(70_reset_and_hazards.md R190). -/
structure State.Inv (s : State) : Prop where
  hpe : s.hpe.Inv
  rst : s.env.rst = true → s.hpe = s.hpe.resetStored

/-- The send phases S1 to S7. -/
def Phase.isSend : Phase → Bool
  | .s1WaitRfd | .s2Drive1 | .s3AssertDav | .s4WaitDac | .s5Drive2 | .s6DeassertDav | .s7WaitDacLow => true
  | .released | .idle | .a0WaitAtn
  | .r1AssertRfd | .r2WaitDav | .r3DeassertRfd | .r4Sample1 | .r5AssertDac | .r6WaitDavLow | .r7Sample2
  | .r8DeassertDac => false

/-- The receive phases R1 to R8. -/
def Phase.isReceive : Phase → Bool
  | .r1AssertRfd | .r2WaitDav | .r3DeassertRfd | .r4Sample1 | .r5AssertDac | .r6WaitDavLow | .r7Sample2
  | .r8DeassertDac => true
  | .released | .idle | .a0WaitAtn
  | .s1WaitRfd | .s2Drive1 | .s3AssertDav | .s4WaitDac | .s5Drive2 | .s6DeassertDav | .s7WaitDacLow => false

/-- What a wait phase waits for, on the ports as they stand; `none` in every other phase (10_state.md R30). -/
def Hpe.waitCondition (h : Hpe) : Option Bool :=
  match h.phase with
  | .a0WaitAtn => some h.inp.atn
  | .s1WaitRfd => some h.inp.rfd
  | .s4WaitDac => some h.inp.dac
  | .s7WaitDacLow => some (!h.inp.dac)
  | .r2WaitDav => some h.inp.dav
  | .r6WaitDavLow => some (!h.inp.dav)
  | .released | .idle
  | .r1AssertRfd | .r3DeassertRfd | .r4Sample1 | .r5AssertDac | .r7Sample2 | .r8DeassertDac
  | .s2Drive1 | .s3AssertDav | .s5Drive2 | .s6DeassertDav => none

/-- An event of a transfer: an outbound transition that the host sees (40_send.md R112, 41_receive.md R134), or a
sample (41_receive.md R134). -/
inductive TransferEvent where
  | dout (v : Byte)
  | dav (b : Bool)
  | rfd (b : Bool)
  | dac (b : Bool)
  | sample1 (v : Byte)
  | sample2 (v : Byte)
  deriving DecidableEq, Repr

/-- The event of the engine's step from `h` to `h'`: what the step wrote (40_send.md R103 to R109, 41_receive.md
R123 to R131). -/
def engineEvents (h h' : Hpe) : List TransferEvent :=
  match h.phase with
  | .s2Drive1 | .s5Drive2 => [.dout h'.out.dout]
  | .s3AssertDav | .s6DeassertDav => [.dav h'.out.dav]
  | .r1AssertRfd | .r3DeassertRfd => [.rfd h'.out.rfd]
  | .r5AssertDac | .r8DeassertDac => [.dac h'.out.dac]
  | .r4Sample1 => [.sample1 h'.rx0]
  | .r7Sample2 => [.sample2 h'.rx1]
  | .released | .idle | .a0WaitAtn | .r2WaitDav | .r6WaitDavLow | .s1WaitRfd | .s4WaitDac | .s7WaitDacLow => []

/-- In the step from `s` to `t` the engine moved: the turn is one in which it may, and the phase changed. -/
def engineMoved (s t : State) : Bool :=
  match s.nextTurn with
  | .engine | .sampleRace _ => !s.env.rst && s.hpe.phase != t.hpe.phase
  | .host _ | .controller | .rst _ => false

/-- The events of the step from `s` to `t`. -/
def stepEvents (s t : State) : List TransferEvent := if engineMoved s t then engineEvents s.hpe t.hpe else []

/-- The events of a whole SEND of the latched bytes (40_send.md R112). -/
def Hpe.sendEvents (h : Hpe) : List TransferEvent :=
  [.dout h.txl0, .dav true] ++ (if h.w then [.dout h.txl1] else []) ++ [.dav false]

/-- The events of a whole RECV or AWAITCMD of the received bytes (41_receive.md R134). -/
def Hpe.receiveEvents (h : Hpe) : List TransferEvent :=
  [.rfd true, .rfd false, .sample1 h.rx0, .dac true] ++ (if h.w then [.sample2 h.rx1] else []) ++ [.dac false]

/-- The events a transfer has shown on entry to a phase, before its action (40_send.md R112, 41_receive.md R134). -/
def Hpe.eventsBefore (h : Hpe) : List TransferEvent :=
  match h.phase with
  | .released | .idle | .a0WaitAtn | .r1AssertRfd | .s1WaitRfd | .s2Drive1 => []
  | .s3AssertDav => [.dout h.txl0]
  | .s4WaitDac | .s5Drive2 => [.dout h.txl0, .dav true]
  | .s6DeassertDav => [.dout h.txl0, .dav true] ++ (if h.w then [.dout h.txl1] else [])
  | .s7WaitDacLow => h.sendEvents
  | .r2WaitDav | .r3DeassertRfd => [.rfd true]
  | .r4Sample1 => [.rfd true, .rfd false]
  | .r5AssertDac => [.rfd true, .rfd false, .sample1 h.rx0]
  | .r6WaitDavLow | .r7Sample2 => [.rfd true, .rfd false, .sample1 h.rx0, .dac true]
  | .r8DeassertDac =>
    [.rfd true, .rfd false, .sample1 h.rx0, .dac true] ++ (if h.w then [.sample2 h.rx1] else [])

/-- `Transfer s es u`: the run from `s` has BUSY = 1 until it completes in IDLE, at `u`, and shows the events `es`.
Every other agent may move in between. A transfer that RELEASE or reset stops does not complete. -/
inductive Transfer : State → List TransferEvent → State → Prop where
  | complete {s : State} : s.hpe.phase = .idle → Transfer s [] s
  | move {s t u : State} {es : List TransferEvent} :
      s.hpe.busy = true → step s = .next t → Transfer t es u → Transfer s (stepEvents s t ++ es) u

/-- The turns of a host that serves a SEND of width `w` by its duties (60_exceptions.md R171), with the engine's
steps between them. -/
def serveSend (w : Bool) : List Turn :=
  [.host (.rfd true), .engine, .engine, .engine, .host (.dac true), .engine]
    ++ (if w then [.engine] else []) ++ [.engine, .host (.dac false), .engine]

/-- The turns of a host that serves a RECV of width `w` with these bytes (60_exceptions.md R171). -/
def serveRecv (w : Bool) (b1 b2 : Byte) : List Turn :=
  [.engine, .host (.din b1), .host (.dav true), .engine, .engine, .engine, .engine]
    ++ (if w then [.host (.din b2)] else []) ++ [.host (.dav false), .engine]
    ++ (if w then [.engine] else []) ++ [.engine]

/-- The turns of a host that serves an AWAITCMD with this command code (60_exceptions.md R171). -/
def serveAwait (c : Byte) : List Turn := [.host (.atn true), .engine] ++ serveRecv false c c

/-- The states of the runs from `s`. -/
inductive Reachable (s : State) : State → Prop where
  | refl : Reachable s s
  | snoc {t u : State} : Reachable s t → step t = .next u → Reachable s u

end Sys2Proof.Machine
end

