-- ==== Sys2Proof/Certificates/Slice0/Obligations.lean ====
section
/-! DEFINITION. The statements about the model. Each docstring names the rule of spec/ it rests on. -/

open Sys2Proof Sys2Proof.Machine

/-! ### Encoding -/

/-- The eight rows of 30_encoding.md R82, their bytes as the table writes them. -/
def Obligations.OpcodeMapBytesDecode : Prop :=
  decode 0b00000000#8 = .ok .nop ∧ decode 0b00000001#8 = .ok .send1 ∧ decode 0b00001001#8 = .ok .send2 ∧
  decode 0b00000010#8 = .ok .recv1 ∧ decode 0b00001010#8 = .ok .recv2 ∧ decode 0b00000011#8 = .ok .awaitcmd ∧
  decode 0b00000110#8 = .ok .enable ∧ decode 0b00000111#8 = .ok .release

/-- 30_encoding.md R82 and R85: a byte decodes to an operation exactly when it is that operation's byte, the bytes
are those of R82, and a byte is illegal exactly when it is none of them. -/
def Obligations.DecodeAndEncodeAgree : Prop :=
  (∀ (i : Instr) (v : Byte), decode v = .ok i ↔ v = encode i) ∧
  [Instr.nop, .send1, .send2, .recv1, .recv2, .awaitcmd, .enable, .release].map encode =
    [0x00#8, 0x01#8, 0x09#8, 0x02#8, 0x0A#8, 0x03#8, 0x06#8, 0x07#8] ∧
  (∀ v : Byte, (∃ e, decode v = .error e) ↔ v ∉ [0x00#8, 0x01#8, 0x09#8, 0x02#8, 0x0A#8, 0x03#8, 0x06#8, 0x07#8])

/-- 30_encoding.md R83: the three groups of illegal bytes, and the rejection of every one of them in every state. -/
def Obligations.IllegalBytesAreRejected : Prop :=
  ∀ (s : State) (v : Byte),
    (decode v = .error .reservedField ↔ 0x10 ≤ v.toNat) ∧
    (decode v = .error .reservedOp ↔ v ∈ [0x04#8, 0x05#8, 0x0C#8, 0x0D#8]) ∧
    (decode v = .error .widthNotAllowed ↔ v ∈ [0x08#8, 0x0B#8, 0x0E#8, 0x0F#8]) ∧
    ((0x10 ≤ v.toNat ∨ v ∈ [0x04#8, 0x05#8, 0x0C#8, 0x0D#8] ∨ v ∈ [0x08#8, 0x0B#8, 0x0E#8, 0x0F#8]) →
      cmdWrite v s = .next { s with hpe := { s.hpe with rejc := .illegal } })

/-! ### The step -/

/-- A step runs the decoded instruction: the controller's next line writes the byte of `i` to CMD, and the step is
`exec i` with the turn and the line taken and the free index advanced (60_exceptions.md R160). -/
def Obligations.StepRunsTheDecodedInstruction : Prop :=
  ∀ (s : State) (i : Instr) (v : Byte) (ts : List Turn) (ls : List ProgLine),
    s.env.rst = false → s.env.schedule = .controller :: ts → s.env.program = .wr 0x0 v :: ls →
    decode v = .ok i → i.wellFormed = true →
    step s = exec i { s with env :=
      { s.env with schedule := ts, program := ls, freeIndex := s.env.freeIndex + 1 } }

/-- A step with an illegal byte rejects it as ILLEGAL and goes on (60_exceptions.md R160, R161). -/
def Obligations.StepRejectsAnIllegalByte : Prop :=
  ∀ (s : State) (e : Illegal) (v : Byte) (ts : List Turn) (ls : List ProgLine),
    s.env.rst = false → s.env.schedule = .controller :: ts → s.env.program = .wr 0x0 v :: ls →
    decode v = .error e →
    step s = .next
      { hpe := { s.hpe with rejc := .illegal },
        env := { s.env with schedule := ts, program := ls, freeIndex := s.env.freeIndex + 1 } }

/-- `withFetchWord` places a byte of the opcode table so that the very next step runs it (the model's choice,
log 5). -/
def Obligations.FetchWordRunsNext : Prop :=
  ∀ (s : State) (nbits w : Nat) (i : Instr), decodeTableWord nbits w = some i →
    step (s.withFetchWord nbits w) =
      exec i { s with env := { s.env with rst := false, freeIndex := s.env.freeIndex + 1 } }

/-- No step of the machine faults or refuses: every state has a next one (60_exceptions.md R163, 30_encoding.md
R83; that no fault reason exists is log 18). That a step takes one turn of the schedule and advances the free index
is the model's choice (log 2 and log 11). -/
def Obligations.EveryStepAnswersANextState : Prop :=
  ∀ s : State, ∃ t, step s = .next t ∧ t.env.schedule = s.env.schedule.tail ∧
    t.env.freeIndex = s.env.freeIndex + 1

/-- With the schedule used up, the step is the engine's: it takes its step if it has one, and changes nothing but
the free index if it has none (60_exceptions.md R173; the model's choice, log 3 and log 4). -/
def Obligations.AnUnscheduledStepIsTheEngines : Prop :=
  ∀ s : State, s.env.rst = false → s.env.schedule = [] →
    (∀ h, engineStep s.hpe = some h →
      step s = .next { hpe := h, env := { s.env with freeIndex := s.env.freeIndex + 1 } }) ∧
    (engineStep s.hpe = none →
      step s = .next { s with env := { s.env with freeIndex := s.env.freeIndex + 1 } })

/-! ### The operations -/

/-- SEND1 and SEND2 in IDLE: accepted, TX copied to TXL for both widths, W loaded, status flags cleared, engine at
S1; everything else as it was (40_send.md R100, R101, 10_state.md R31, R32). -/
def Obligations.SendIsAcceptedInIdle : Prop :=
  ∀ s : State, s.hpe.phase = .idle →
    exec .send1 s = .next { s with hpe :=
      { s.hpe with
        txl0 := s.hpe.tx0, txl1 := s.hpe.tx1, w := false, done := false, abt := false, rejc := .none,
        phase := .s1WaitRfd } } ∧
    exec .send2 s = .next { s with hpe :=
      { s.hpe with
        txl0 := s.hpe.tx0, txl1 := s.hpe.tx1, w := true, done := false, abt := false, rejc := .none,
        phase := .s1WaitRfd } }

/-- RECV1, RECV2 and AWAITCMD in IDLE: accepted, W loaded, status flags cleared, engine at R1 or A0; everything
else as it was (41_receive.md R120 to R122). -/
def Obligations.ReceiveIsAcceptedInIdle : Prop :=
  ∀ s : State, s.hpe.phase = .idle →
    exec .recv1 s = .next { s with hpe :=
      { s.hpe with w := false, done := false, abt := false, rejc := .none, phase := .r1AssertRfd } } ∧
    exec .recv2 s = .next { s with hpe :=
      { s.hpe with w := true, done := false, abt := false, rejc := .none, phase := .r1AssertRfd } } ∧
    exec .awaitcmd s = .next { s with hpe :=
      { s.hpe with w := false, done := false, abt := false, rejc := .none, phase := .a0WaitAtn } }

/-- 42_control.md R141: NOP changes nothing, in every phase. -/
def Obligations.NopChangesNothing : Prop :=
  ∀ s : State, exec .nop s = .next s ∧ cmdWrite 0x00 s = .next s

/-- 42_control.md R142: ENABLE is rejected as BUSY during a transfer; else it sets the idle levels and OE in one
step, and keeps DOUT and everything else. -/
def Obligations.EnableDrivesIdleLevels : Prop :=
  ∀ s : State, cmdWrite 0x06 s = exec .enable s ∧
    (s.hpe.phase ≠ .released → s.hpe.phase ≠ .idle →
      exec .enable s = .next { s with hpe := { s.hpe with rejc := .busy } }) ∧
    (s.hpe.phase = .released ∨ s.hpe.phase = .idle →
      exec .enable s = .next { s with hpe :=
        { s.hpe with
          out := { s.hpe.out with dav := false, rfd := false, dac := false }, oe := true, phase := .idle,
          done := false, abt := false, rejc := .none } })

/-- 42_control.md R143: RELEASE is accepted in every phase, and ABT says whether an operation was stopped. -/
def Obligations.ReleaseStopsAnyOperation : Prop :=
  ∀ s : State, cmdWrite 0x07 s = exec .release s ∧
    exec .release s = .next { s with hpe :=
      { s.hpe with
        out := { s.hpe.out with dav := false, rfd := false, dac := false }, oe := false, phase := .released,
        abt := decide (s.hpe.phase ≠ .released ∧ s.hpe.phase ≠ .idle), done := false, rejc := .none } }

/-- 60_exceptions.md R161 and R162: every CMD write answers; which code it records, ILLEGAL before the others; an
accepted operation other than NOP records 0b00; and a rejected write changes nothing but REJC. -/
def Obligations.CmdWriteRecordsOneRejection : Prop :=
  (∀ h : Hpe, h.phase = .released → h.busy = false) ∧
  ∀ (s : State) (v : Byte), ∃ t, cmdWrite v s = .next t ∧ t.env = s.env ∧
    (v ∉ [0x00#8, 0x01#8, 0x09#8, 0x02#8, 0x0A#8, 0x03#8, 0x06#8, 0x07#8] → t.hpe.rejc.code = 0b01#2) ∧
    (v ∈ [0x01#8, 0x09#8, 0x02#8, 0x0A#8, 0x03#8] → s.hpe.phase = .released → t.hpe.rejc.code = 0b11#2) ∧
    (v ∈ [0x01#8, 0x09#8, 0x02#8, 0x0A#8, 0x03#8, 0x06#8] → s.hpe.busy = true → t.hpe.rejc.code = 0b10#2) ∧
    (v ∈ [0x01#8, 0x09#8, 0x02#8, 0x0A#8, 0x03#8] → s.hpe.phase = .idle → t.hpe.rejc.code = 0b00#2) ∧
    (v = 0x06#8 → s.hpe.busy = false → t.hpe.rejc.code = 0b00#2) ∧
    (v = 0x07#8 → t.hpe.rejc.code = 0b00#2) ∧
    (v = 0x00#8 → t = s) ∧
    (v ≠ 0x00#8 → t.hpe.rejc ≠ .none → t.hpe = { s.hpe with rejc := t.hpe.rejc })

/-- 40_send.md R102: SEND1 and SEND2 differ in W and in whether S5 runs, and in nothing else. -/
def Obligations.SendWidthsDifferInTwoWays : Prop :=
  (∀ s t : State, exec .send1 s = .next t →
    (s.hpe.phase = .idle → t.hpe.w = false ∧ exec .send2 s = .next { t with hpe := { t.hpe with w := true } }) ∧
    (s.hpe.phase ≠ .idle → exec .send2 s = .next t)) ∧
  (∀ (h : Hpe) (b : Bool), h.phase.isSend = true → h.phase ≠ .s4WaitDac →
    engineStep { h with w := b } = (engineStep h).map fun h' => { h' with w := b }) ∧
  (∀ h : Hpe, h.phase = .s4WaitDac → h.inp.dac = true →
    engineStep { h with w := true } = some { h with w := true, phase := .s5Drive2 } ∧
    engineStep { h with w := false } = some { h with w := false, phase := .s6DeassertDav })

/-! ### The phases -/

/-- The pseudocode of 40_send.md R103 to R109: the engine's step in each send phase, as a step of the machine. That a
held engine's turn changes nothing but the turn and the free index is the model's choice (log 4). -/
def Obligations.SendPhasesStepAsRuled : Prop :=
  ∀ s : State, s.env.rst = false → s.nextTurn = .engine →
    (s.hpe.phase = .s1WaitRfd → step s = .next (s.tick.withHpe
      (if s.hpe.inp.rfd then { s.hpe with phase := .s2Drive1 } else s.hpe))) ∧
    (s.hpe.phase = .s2Drive1 → step s = .next (s.tick.withHpe
      { s.hpe with out := { s.hpe.out with dout := s.hpe.txl0 }, phase := .s3AssertDav })) ∧
    (s.hpe.phase = .s3AssertDav → step s = .next (s.tick.withHpe
      { s.hpe with out := { s.hpe.out with dav := true }, phase := .s4WaitDac })) ∧
    (s.hpe.phase = .s4WaitDac → step s = .next (s.tick.withHpe
      (if s.hpe.inp.dac then
        if s.hpe.w then { s.hpe with phase := .s5Drive2 } else { s.hpe with phase := .s6DeassertDav }
       else s.hpe))) ∧
    (s.hpe.phase = .s5Drive2 → step s = .next (s.tick.withHpe
      { s.hpe with out := { s.hpe.out with dout := s.hpe.txl1 }, phase := .s6DeassertDav })) ∧
    (s.hpe.phase = .s6DeassertDav → step s = .next (s.tick.withHpe
      { s.hpe with out := { s.hpe.out with dav := false }, phase := .s7WaitDacLow })) ∧
    (s.hpe.phase = .s7WaitDacLow → step s = .next (s.tick.withHpe
      (if s.hpe.inp.dac then s.hpe else { s.hpe with done := true, phase := .idle })))

/-- The pseudocode of 41_receive.md R123 to R131: the engine's step in A0 and each receive phase, as a step of the
machine. That a held engine's turn changes nothing but the turn and the free index is the model's choice (log 4). -/
def Obligations.ReceivePhasesStepAsRuled : Prop :=
  ∀ s : State, s.env.rst = false → s.nextTurn = .engine →
    (s.hpe.phase = .a0WaitAtn → step s = .next (s.tick.withHpe
      (if s.hpe.inp.atn then { s.hpe with phase := .r1AssertRfd } else s.hpe))) ∧
    (s.hpe.phase = .r1AssertRfd → step s = .next (s.tick.withHpe
      { s.hpe with out := { s.hpe.out with rfd := true }, phase := .r2WaitDav })) ∧
    (s.hpe.phase = .r2WaitDav → step s = .next (s.tick.withHpe
      (if s.hpe.inp.dav then { s.hpe with phase := .r3DeassertRfd } else s.hpe))) ∧
    (s.hpe.phase = .r3DeassertRfd → step s = .next (s.tick.withHpe
      { s.hpe with out := { s.hpe.out with rfd := false }, phase := .r4Sample1 })) ∧
    (s.hpe.phase = .r4Sample1 → step s = .next (s.tick.withHpe
      { s.hpe with rx0 := s.hpe.inp.din, phase := .r5AssertDac })) ∧
    (s.hpe.phase = .r5AssertDac → step s = .next (s.tick.withHpe
      { s.hpe with out := { s.hpe.out with dac := true }, phase := .r6WaitDavLow })) ∧
    (s.hpe.phase = .r6WaitDavLow → step s = .next (s.tick.withHpe
      (if s.hpe.inp.dav then s.hpe
       else if s.hpe.w then { s.hpe with phase := .r7Sample2 } else { s.hpe with phase := .r8DeassertDac }))) ∧
    (s.hpe.phase = .r7Sample2 → step s = .next (s.tick.withHpe
      { s.hpe with rx1 := s.hpe.inp.din, phase := .r8DeassertDac })) ∧
    (s.hpe.phase = .r8DeassertDac → step s = .next (s.tick.withHpe
      { s.hpe with out := { s.hpe.out with dac := false }, done := true, phase := .idle }))

/-- 60_exceptions.md R169: when the engine has a step, and that its step depends on nothing but the phase, W, TXL0,
TXL1 and the inbound ports: two HPEs that agree on those step alike, field by field, and each field the step does
not write is kept in both. -/
def Obligations.EngineStepsExactlyWhenRuled : Prop :=
  (∀ h : Hpe, (engineStep h).isSome = true ↔
    (h.phase ∈ [.s2Drive1, .s3AssertDav, .s5Drive2, .s6DeassertDav, .r1AssertRfd, .r3DeassertRfd, .r4Sample1,
      .r5AssertDac, .r7Sample2, .r8DeassertDac] ∨ h.waitCondition = some true)) ∧
  (∀ h g : Hpe, h.phase = g.phase → h.w = g.w → h.txl0 = g.txl0 → h.txl1 = g.txl1 → h.inp = g.inp →
    ((engineStep h).isSome = (engineStep g).isSome) ∧
    ∀ h' g', engineStep h = some h' → engineStep g = some g' →
      h'.phase = g'.phase ∧
      ((h'.out.dout = h.out.dout ∧ g'.out.dout = g.out.dout) ∨ h'.out.dout = g'.out.dout) ∧
      ((h'.out.dav = h.out.dav ∧ g'.out.dav = g.out.dav) ∨ h'.out.dav = g'.out.dav) ∧
      ((h'.out.rfd = h.out.rfd ∧ g'.out.rfd = g.out.rfd) ∨ h'.out.rfd = g'.out.rfd) ∧
      ((h'.out.dac = h.out.dac ∧ g'.out.dac = g.out.dac) ∨ h'.out.dac = g'.out.dac) ∧
      ((h'.rx0 = h.rx0 ∧ g'.rx0 = g.rx0) ∨ h'.rx0 = g'.rx0) ∧
      ((h'.rx1 = h.rx1 ∧ g'.rx1 = g.rx1) ∨ h'.rx1 = g'.rx1) ∧
      ((h'.done = h.done ∧ g'.done = g.done) ∨ h'.done = g'.done))

/-- What the engine's step never writes: the ports, OE, TX0, TX1, W, TXL0, TXL1, ABT and REJC (10_state.md R20,
R28, R31, R32, 20_memory.md R68). -/
def Obligations.EngineStepFrame : Prop :=
  ∀ h h' : Hpe, engineStep h = some h' →
    h'.inp = h.inp ∧ h'.oe = h.oe ∧ h'.tx0 = h.tx0 ∧ h'.tx1 = h.tx1 ∧ h'.w = h.w ∧ h'.txl0 = h.txl0 ∧
    h'.txl1 = h.txl1 ∧ h'.abt = h.abt ∧ h'.rejc = h.rejc ∧ h'.phase ≠ h.phase ∧
    (h'.done = h.done ∨ (h'.done = true ∧ h'.phase = .idle))

/-- 20_memory.md R66: an engine step writes at most one output field; of the operations only ENABLE and RELEASE
write OE and the handshake latches, and none writes DOUT. -/
def Obligations.EngineStepWritesAtMostOneOutputField : Prop :=
  (∀ h h' : Hpe, engineStep h = some h' →
    h'.oe = h.oe ∧
    (h'.out = { h.out with dout := h'.out.dout } ∨ h'.out = { h.out with dav := h'.out.dav } ∨
     h'.out = { h.out with rfd := h'.out.rfd } ∨ h'.out = { h.out with dac := h'.out.dac })) ∧
  (∀ (i : Instr) (s t : State), exec i s = .next t →
    t.hpe.out.dout = s.hpe.out.dout ∧
    (i ≠ .enable → i ≠ .release → t.hpe.out = s.hpe.out ∧ t.hpe.oe = s.hpe.oe))

/-- 20_memory.md R65: a sample or drive step takes the whole byte and neither changes nor reads a handshake line; a
handshake step neither changes nor reads a data field. -/
def Obligations.DataAndHandshakeStepsAreApart : Prop :=
  ∀ h h' : Hpe, engineStep h = some h' →
    (h.phase ∈ [.r4Sample1, .r7Sample2, .s2Drive1, .s5Drive2] →
      (h'.out.dav = h.out.dav ∧ h'.out.rfd = h.out.rfd ∧ h'.out.dac = h.out.dac) ∧
      ((h.phase = .r4Sample1 → h'.rx0 = h.inp.din) ∧ (h.phase = .r7Sample2 → h'.rx1 = h.inp.din) ∧
       (h.phase = .s2Drive1 → h'.out.dout = h.txl0) ∧ (h.phase = .s5Drive2 → h'.out.dout = h.txl1)) ∧
      ∀ dav rfd dac atn : Bool,
        engineStep { h with inp := { h.inp with dav := dav, rfd := rfd, dac := dac, atn := atn } } =
          some { h' with inp := { h.inp with dav := dav, rfd := rfd, dac := dac, atn := atn } }) ∧
    (h.phase ∉ [.r4Sample1, .r7Sample2, .s2Drive1, .s5Drive2] →
      (h'.out.dout = h.out.dout ∧ h'.rx0 = h.rx0 ∧ h'.rx1 = h.rx1) ∧
      ∀ din txl0 txl1 dout rx0 rx1 : Byte,
        engineStep { h with inp := { h.inp with din := din }, txl0 := txl0, txl1 := txl1, rx0 := rx0, rx1 := rx1,
                            out := { h.out with dout := dout } } =
          some { h' with inp := { h.inp with din := din }, txl0 := txl0, txl1 := txl1, rx0 := rx0, rx1 := rx1,
                         out := { h'.out with dout := dout } })

/-- 40_send.md R110: in a send phase ATN, DAV, DIN, DSIZE and RST have no effect; RFD is read only in S1 and DAC
only in S4 and S7; and out.RFD and out.DAC are never written. -/
def Obligations.SendReadsOnlyRfdAndDac : Prop :=
  ∀ h : Hpe, h.phase.isSend = true →
    (∀ (din : Byte) (dsize : BitVec 2) (dav atn rst : Bool),
      engineStep { h with inp := { h.inp with din := din, dsize := dsize, dav := dav, atn := atn, rst := rst } } =
        (engineStep h).map fun h' =>
          { h' with inp := { h.inp with din := din, dsize := dsize, dav := dav, atn := atn, rst := rst } }) ∧
    (h.phase ≠ .s1WaitRfd → ∀ rfd : Bool,
      engineStep { h with inp := { h.inp with rfd := rfd } } =
        (engineStep h).map fun h' => { h' with inp := { h.inp with rfd := rfd } }) ∧
    (h.phase ≠ .s4WaitDac → h.phase ≠ .s7WaitDacLow → ∀ dac : Bool,
      engineStep { h with inp := { h.inp with dac := dac } } =
        (engineStep h).map fun h' => { h' with inp := { h.inp with dac := dac } }) ∧
    (∀ h', engineStep h = some h' → h'.out.rfd = h.out.rfd ∧ h'.out.dac = h.out.dac)

/-- 41_receive.md R132: in a receive phase RFD, DAC, ATN, DSIZE and RST have no effect; DAV is read only in R2 and
R6, DIN only in R4 and R7; out.DAV and out.DOUT are never written; and A0 reads ATN only. -/
def Obligations.ReceiveReadsOnlyDavAndDin : Prop :=
  ∀ h : Hpe,
    (h.phase.isReceive = true →
      (∀ (dsize : BitVec 2) (rfd dac atn rst : Bool),
        engineStep { h with inp := { h.inp with dsize := dsize, rfd := rfd, dac := dac, atn := atn, rst := rst } } =
          (engineStep h).map fun h' =>
            { h' with inp := { h.inp with dsize := dsize, rfd := rfd, dac := dac, atn := atn, rst := rst } }) ∧
      (h.phase ≠ .r2WaitDav → h.phase ≠ .r6WaitDavLow → ∀ dav : Bool,
        engineStep { h with inp := { h.inp with dav := dav } } =
          (engineStep h).map fun h' => { h' with inp := { h.inp with dav := dav } }) ∧
      (h.phase ≠ .r4Sample1 → h.phase ≠ .r7Sample2 → ∀ din : Byte,
        engineStep { h with inp := { h.inp with din := din } } =
          (engineStep h).map fun h' => { h' with inp := { h.inp with din := din } }) ∧
      (∀ h', engineStep h = some h' → h'.out.dav = h.out.dav ∧ h'.out.dout = h.out.dout)) ∧
    (h.phase = .a0WaitAtn → ∀ p : InPorts, p.atn = h.inp.atn →
      engineStep { h with inp := p } = (engineStep h).map fun h' => { h' with inp := p })

/-! ### Invariants and whole-machine rules -/

/-- 10_state.md R47 and R48 with what follows from them (Safety.lean, `Hpe.Inv`): every step keeps them, whoever
moves. -/
def Obligations.EveryStepKeepsTheInvariant : Prop :=
  ∀ s t : State, s.Inv → step s = .next t → t.Inv

/-- The invariant holds right after reset. -/
def Obligations.ResetMeetsTheInvariant : Prop :=
  State.reset.Inv

/-- 10_state.md R46 and the part of 70_reset_and_hazards.md R205 that the phase rules give: when a transfer
completes, DONE is 1, the three latches are 0, and after a send the host's DAC is low. -/
def Obligations.CompletionLeavesIdleLines : Prop :=
  ∀ s t : State, s.Inv → s.hpe.busy = true → step s = .next t → t.hpe.phase = .idle →
    t.hpe.done = true ∧ t.hpe.out.dav = false ∧ t.hpe.out.rfd = false ∧ t.hpe.out.dac = false ∧
    (s.hpe.phase.isSend = true → t.hpe.inp.dac = false)

/-- The RECV sentence of 70_reset_and_hazards.md R205, of every run that starts with a reset HPE: `in.DAV = 0` at
the completion of a receive. Expected to FAIL (log 15): R8 does not look at DAV, and the host may assert it again
between R6 and R8. -/
def Obligations.ReceiveCompletesWithDavLow : Prop :=
  ∀ (e : Env) (s t : State), Reachable { hpe := Hpe.reset, env := e } s →
    s.hpe.phase = .r8DeassertDac → step s = .next t → t.hpe.phase = .idle → t.hpe.inp.dav = false

/-- 40_send.md R111 and 41_receive.md R133: a held engine stays in its wait phase in every step but an accepted
RELEASE and a reset. No number of steps ends the wait. -/
def Obligations.OnlyReleaseOrResetEndsAHeldWait : Prop :=
  ∀ s t : State, s.env.rst = false → s.hpe.waitCondition = some false → step s = .next t →
    t.hpe.phase = s.hpe.phase ∨
    (t.hpe.phase = .released ∧
      ((s.nextTurn = .controller ∧ ∃ ls, s.env.program = .wr 0x0 0x07 :: ls) ∨ s.nextTurn = .rst true))

/-- The inbound ports are written only by host steps (10_state.md R20, 20_memory.md R68). -/
def Obligations.OnlyTheHostChangesAPort : Prop :=
  ∀ s t : State, step s = .next t → t.hpe.inp ≠ s.hpe.inp →
    (∃ c, s.nextTurn = .host c) ∨ (∃ v, s.nextTurn = .sampleRace v)

/-- 10_state.md R25: DOUT changes only in S2 and S5, to the latched bytes, and at reset. -/
def Obligations.DoutChangesOnlyInDrivePhases : Prop :=
  ∀ s t : State, s.env.rst = false → step s = .next t → t.hpe.out.dout ≠ s.hpe.out.dout →
    (s.nextTurn = .engine ∧
      ((s.hpe.phase = .s2Drive1 ∧ t.hpe.out.dout = s.hpe.txl0) ∨
       (s.hpe.phase = .s5Drive2 ∧ t.hpe.out.dout = s.hpe.txl1))) ∨
    (s.nextTurn = .rst true ∧ t.hpe.out.dout = 0x00)

/-- 10_state.md R29: RX0 changes only at R4 and RX1 only at R7, to the sampled byte, and at reset. The byte of a
sample that races with a change of DIN is the free value (log 9). -/
def Obligations.ReceivedBytesChangeOnlyAtSamples : Prop :=
  ∀ s t : State, s.env.rst = false → step s = .next t →
    (t.hpe.rx0 ≠ s.hpe.rx0 →
      (s.hpe.phase = .r4Sample1 ∧
        ((s.nextTurn = .engine ∧ t.hpe.rx0 = s.hpe.inp.din) ∨ ∃ v, s.nextTurn = .sampleRace v)) ∨
      (s.nextTurn = .rst true ∧ t.hpe.rx0 = 0x00)) ∧
    (t.hpe.rx1 ≠ s.hpe.rx1 →
      (s.hpe.phase = .r7Sample2 ∧
        ((s.nextTurn = .engine ∧ t.hpe.rx1 = s.hpe.inp.din) ∨ ∃ v, s.nextTurn = .sampleRace v)) ∨
      (s.nextTurn = .rst true ∧ t.hpe.rx1 = 0x00))

/-- 10_state.md R28 and R32: TX0 and TX1 change only by a controller write to their address, TXL0 and TXL1 only by
an accepted SEND, and all four at reset. So a write to TX0 or TX1 never changes a send already accepted
(20_memory.md R74). -/
def Obligations.SendDataChangesOnlyByItsWrites : Prop :=
  ∀ s t : State, s.env.rst = false → step s = .next t →
    (t.hpe.tx0 ≠ s.hpe.tx0 →
      (s.nextTurn = .controller ∧ ∃ ls, s.env.program = .wr 0x2 t.hpe.tx0 :: ls) ∨ s.nextTurn = .rst true) ∧
    (t.hpe.tx1 ≠ s.hpe.tx1 →
      (s.nextTurn = .controller ∧ ∃ ls, s.env.program = .wr 0x3 t.hpe.tx1 :: ls) ∨ s.nextTurn = .rst true) ∧
    (t.hpe.txl0 ≠ s.hpe.txl0 ∨ t.hpe.txl1 ≠ s.hpe.txl1 →
      (s.nextTurn = .controller ∧ s.hpe.phase = .idle ∧ t.hpe.txl0 = s.hpe.tx0 ∧ t.hpe.txl1 = s.hpe.tx1 ∧
        ∃ v ls, s.env.program = .wr 0x0 v :: ls ∧ (v = 0x01#8 ∨ v = 0x09#8)) ∨ s.nextTurn = .rst true)

/-- 10_state.md R27: OE rises only by ENABLE, and falls only by RELEASE and reset; the engine leaves RELEASED only
by ENABLE (70_reset_and_hazards.md R191). -/
def Obligations.OnlyEnableDrivesThePins : Prop :=
  ∀ s t : State, s.env.rst = false → step s = .next t →
    (s.hpe.oe = false → t.hpe.oe = true →
      s.nextTurn = .controller ∧ ∃ ls, s.env.program = .wr 0x0 0x06 :: ls) ∧
    (s.hpe.oe = true → t.hpe.oe = false →
      (s.nextTurn = .controller ∧ ∃ ls, s.env.program = .wr 0x0 0x07 :: ls) ∨ s.nextTurn = .rst true) ∧
    (s.hpe.phase = .released → t.hpe.phase ≠ .released →
      t.hpe.phase = .idle ∧ s.nextTurn = .controller ∧ ∃ ls, s.env.program = .wr 0x0 0x06 :: ls)

/-- 10_state.md R33 and R34: DONE rises only when the engine completes a transfer, and ABT only when a RELEASE
stops one; both fall only by an accepted operation or at reset. -/
def Obligations.DoneAndAbtChangeAsRuled : Prop :=
  ∀ s t : State, s.env.rst = false → step s = .next t →
    (s.hpe.done = false → t.hpe.done = true →
      s.nextTurn = .engine ∧ t.hpe.phase = .idle ∧
      (s.hpe.phase = .s7WaitDacLow ∨ s.hpe.phase = .r8DeassertDac)) ∧
    (s.hpe.abt = false → t.hpe.abt = true →
      s.nextTurn = .controller ∧ s.hpe.busy = true ∧ ∃ ls, s.env.program = .wr 0x0 0x07 :: ls) ∧
    ((s.hpe.done = true ∧ t.hpe.done = false) ∨ (s.hpe.abt = true ∧ t.hpe.abt = false) →
      (s.nextTurn = .controller ∧ ∃ v ls, s.env.program = .wr 0x0 v :: ls ∧ v ≠ 0x00#8 ∧
        (∃ i, decode v = .ok i) ∧ t.hpe.rejc = .none) ∨ s.nextTurn = .rst true)

/-- 70_reset_and_hazards.md R192, 10_state.md R23 and R24: in.RST and in.DSIZE have no effect on anything but a
read of LINES_IN: a step goes the same way whatever their values. -/
def Obligations.ResetSenseAndDataSizeHaveNoEffect : Prop :=
  ∀ (s : State) (b : Bool) (d : BitVec 2),
    (∀ x, s.nextTurn ≠ .host (.rst x)) → (∀ x, s.nextTurn ≠ .host (.dsize x)) →
    (∀ x ls, s.env.program ≠ .rd 0x6 x :: ls) → (∀ m x ls, s.env.program ≠ .poll 0x6 m x :: ls) →
    ∃ t, step s = .next t ∧
      step { s with hpe := { s.hpe with inp := { s.hpe.inp with rst := b, dsize := d } } } =
        .next { t with hpe := { t.hpe with inp := { t.hpe.inp with rst := b, dsize := d } } }

/-! ### Transfers as a whole -/

/-- 40_send.md R112 and 20_memory.md R69, R74: a SEND that completes, with every other agent moving in between in
any way, shows exactly these events in this order, with the bytes TX held at the accept, and leaves DONE = 1 and
the last byte on DOUT. -/
def Obligations.SendShowsItsEventsInOrder : Prop :=
  ∀ (s t u : State) (es : List TransferEvent), s.hpe.phase = .idle →
    (exec .send1 s = .next t → Transfer t es u →
      es = [.dout s.hpe.tx0, .dav true, .dav false] ∧ u.hpe.out.dout = s.hpe.tx0 ∧ u.hpe.done = true) ∧
    (exec .send2 s = .next t → Transfer t es u →
      es = [.dout s.hpe.tx0, .dav true, .dout s.hpe.tx1, .dav false] ∧ u.hpe.out.dout = s.hpe.tx1 ∧
      u.hpe.done = true)

/-- 41_receive.md R134 and 20_memory.md R69, R75: a RECV or AWAITCMD that completes, with every other agent moving
in between in any way, shows exactly these events in this order; the sampled bytes stand in RX0 and RX1, and a
1-byte receive keeps RX1. -/
def Obligations.ReceiveShowsItsEventsInOrder : Prop :=
  ∀ (s t u : State) (es : List TransferEvent), s.hpe.phase = .idle →
    (exec .recv1 s = .next t ∨ exec .awaitcmd s = .next t → Transfer t es u →
      es = [.rfd true, .rfd false, .sample1 u.hpe.rx0, .dac true, .dac false] ∧ u.hpe.rx1 = s.hpe.rx1 ∧
      u.hpe.done = true) ∧
    (exec .recv2 s = .next t → Transfer t es u →
      es = [.rfd true, .rfd false, .sample1 u.hpe.rx0, .dac true, .sample2 u.hpe.rx1, .dac false] ∧
      u.hpe.done = true)

/-- 60_exceptions.md R171: with a host that keeps its duties, an accepted SEND completes, whatever the ports held
before: DOUT ends at the last byte, the latches at idle, and the rest as the accept left it. -/
def Obligations.ServedSendCompletes : Prop :=
  ∀ (s : State) (w : Bool) (ts : List Turn), s.hpe.phase = .idle → s.env.rst = false →
    s.env.schedule = serveSend w ++ ts →
    ∃ t u, exec (if w then .send2 else .send1) s = .next t ∧
      Host.Core.run Sys2Proof.core (serveSend w).length t = .next u ∧ u.env.schedule = ts ∧
      u.hpe = { s.hpe with
        inp := { s.hpe.inp with rfd := true, dac := false }
        out := { s.hpe.out with dout := if w then s.hpe.tx1 else s.hpe.tx0, dav := false }
        txl0 := s.hpe.tx0, txl1 := s.hpe.tx1, w := w, done := true, abt := false, rejc := .none, phase := .idle }

/-- 60_exceptions.md R171: with a host that keeps its duties, an accepted RECV completes with the host's bytes in
RX0 and, for two bytes, RX1. -/
def Obligations.ServedReceiveCompletes : Prop :=
  ∀ (s : State) (w : Bool) (b1 b2 : Byte) (ts : List Turn), s.hpe.phase = .idle → s.env.rst = false →
    s.env.schedule = serveRecv w b1 b2 ++ ts →
    ∃ t u, exec (if w then .recv2 else .recv1) s = .next t ∧
      Host.Core.run Sys2Proof.core (serveRecv w b1 b2).length t = .next u ∧ u.env.schedule = ts ∧
      u.hpe = { s.hpe with
        inp := { s.hpe.inp with din := if w then b2 else b1, dav := false }
        out := { s.hpe.out with rfd := false, dac := false }
        rx0 := b1, rx1 := if w then b2 else s.hpe.rx1
        w := w, done := true, abt := false, rejc := .none, phase := .idle }

/-- 60_exceptions.md R171: with a host that keeps its duties, an accepted AWAITCMD completes with the command code
in RX0. -/
def Obligations.ServedAwaitCompletes : Prop :=
  ∀ (s : State) (c : Byte) (ts : List Turn), s.hpe.phase = .idle → s.env.rst = false →
    s.env.schedule = serveAwait c ++ ts →
    ∃ t u, exec .awaitcmd s = .next t ∧
      Host.Core.run Sys2Proof.core (serveAwait c).length t = .next u ∧ u.env.schedule = ts ∧
      u.hpe = { s.hpe with
        inp := { s.hpe.inp with din := c, dav := false, atn := true }
        out := { s.hpe.out with rfd := false, dac := false }
        rx0 := c, w := false, done := true, abt := false, rejc := .none, phase := .idle }

/-- 60_exceptions.md R166: a RELEASE written in the same instant that S7 completes has the two outcomes of the two
orders, which differ in ABT only. -/
def Obligations.ReleaseRacesWithCompletion : Prop :=
  ∀ (s : State) (ts : List Turn) (ls : List ProgLine),
    s.hpe.phase = .s7WaitDacLow → s.hpe.inp.dac = false → s.env.rst = false → s.env.program = .wr 0x0 0x07 :: ls →
    ∃ t u,
      Host.Core.run Sys2Proof.core 2 { s with env := { s.env with schedule := .controller :: .engine :: ts } } =
        .next t ∧
      Host.Core.run Sys2Proof.core 2 { s with env := { s.env with schedule := .engine :: .controller :: ts } } =
        .next u ∧
      t.hpe.abt = true ∧ u.hpe.abt = false ∧ t.hpe.done = false ∧ t.hpe.phase = .released ∧
      u.hpe = { t.hpe with abt := false } ∧ u.env = t.env

/-! ### Registers, pins, reset -/

/-- The layout of STATUS (10_state.md R38), bit by bit. -/
def Obligations.StatusRegisterLayout : Prop :=
  ∀ h : Hpe,
    (regRead 0x1 h).getLsbD 0 = decide (h.phase ≠ .released ∧ h.phase ≠ .idle) ∧
    (regRead 0x1 h).getLsbD 1 = h.done ∧ (regRead 0x1 h).getLsbD 2 = h.abt ∧ (regRead 0x1 h).getLsbD 3 = h.oe ∧
    (regRead 0x1 h).extractLsb' 4 2 = h.rejc.code ∧ (regRead 0x1 h).extractLsb' 6 2 = 0b00#2

/-- The layouts of LINES_IN, LINES_OUT and PHASE (10_state.md R39 to R41), bit by bit. -/
def Obligations.LineAndPhaseRegisterLayouts : Prop :=
  ∀ h : Hpe,
    ((regRead 0x6 h).getLsbD 0 = h.inp.dav ∧ (regRead 0x6 h).getLsbD 1 = h.inp.rfd ∧
     (regRead 0x6 h).getLsbD 2 = h.inp.dac ∧ (regRead 0x6 h).getLsbD 3 = h.inp.atn ∧
     (regRead 0x6 h).getLsbD 4 = h.inp.rst ∧ (regRead 0x6 h).extractLsb' 5 2 = h.inp.dsize ∧
     (regRead 0x6 h).getLsbD 7 = false) ∧
    ((regRead 0x8 h).getLsbD 0 = h.out.dav ∧ (regRead 0x8 h).getLsbD 1 = h.out.rfd ∧
     (regRead 0x8 h).getLsbD 2 = h.out.dac ∧ (regRead 0x8 h).getLsbD 3 = h.oe ∧
     (regRead 0x8 h).extractLsb' 4 4 = 0b0000#4) ∧
    ((regRead 0x9 h).extractLsb' 0 5 = h.phase.code ∧ (regRead 0x9 h).getLsbD 5 = h.w ∧
     (regRead 0x9 h).extractLsb' 6 2 = 0b00#2)

/-- 20_memory.md R61 for the registers without a layout, and that a read by the controller binds the byte and
changes no HPE state (R63). -/
def Obligations.RegisterReadsHaveNoSideEffect : Prop :=
  (∀ h : Hpe, regRead 0x0 h = 0x00 ∧ regRead 0x2 h = h.tx0 ∧ regRead 0x3 h = h.tx1 ∧ regRead 0x4 h = h.rx0 ∧
    regRead 0x5 h = h.rx1 ∧ regRead 0x7 h = h.inp.din ∧ regRead 0xA h = h.out.dout ∧
    ∀ a : RegAddr, 0xB ≤ a.toNat → regRead a h = 0x00) ∧
  (∀ (s : State) (a : RegAddr) (x : Nat) (ls : List ProgLine),
    s.env.rst = false → s.nextTurn = .controller → s.env.program = .rd a x :: ls →
    step s = .next { s with env :=
      { s.env with schedule := s.env.schedule.tail, freeIndex := s.env.freeIndex + 1, program := ls,
                   names := (x, regRead a s.hpe) :: s.env.names } })

/-- 20_memory.md R62: what a register write does at each of the 16 addresses, in every phase. -/
def Obligations.RegisterWritesDoAsRuled : Prop :=
  ∀ (s : State) (a : RegAddr) (v : Byte), s.env.rst = false →
    (a = 0x0 → regWrite a v s = cmdWrite v s) ∧
    (a = 0x2 → regWrite a v s = .next { s with hpe := { s.hpe with tx0 := v } }) ∧
    (a = 0x3 → regWrite a v s = .next { s with hpe := { s.hpe with tx1 := v } }) ∧
    (a = 0x1 ∨ 0x4 ≤ a.toNat → regWrite a v s = .next s)

/-- `POLL addr, mask, val` reads once a turn and goes on exactly when the masked byte is `val`
(30_encoding.md R88). -/
def Obligations.PollWaitsForTheMaskedByte : Prop :=
  ∀ (s : State) (a : RegAddr) (mask val : Byte) (ls : List ProgLine),
    s.env.rst = false → s.nextTurn = .controller → s.env.program = .poll a mask val :: ls →
    (regRead a s.hpe &&& mask = val → step s = .next (s.tick.withProgram ls)) ∧
    (regRead a s.hpe &&& mask ≠ val → step s = .next s.tick)

/-- 10_state.md R30: the code of each of the 18 phases, that there is no other phase, and that PHASE never shows an
unused code. -/
def Obligations.PhaseCodesAreTheEighteen : Prop :=
  (∀ p : Phase, (p, p.code) ∈
    [(.released, 0x00#5), (.idle, 0x01#5), (.a0WaitAtn, 0x02#5), (.r1AssertRfd, 0x08#5), (.r2WaitDav, 0x09#5),
     (.r3DeassertRfd, 0x0A#5), (.r4Sample1, 0x0B#5), (.r5AssertDac, 0x0C#5), (.r6WaitDavLow, 0x0D#5),
     (.r7Sample2, 0x0E#5), (.r8DeassertDac, 0x0F#5), (.s1WaitRfd, 0x10#5), (.s2Drive1, 0x11#5),
     (.s3AssertDav, 0x12#5), (.s4WaitDac, 0x13#5), (.s5Drive2, 0x14#5), (.s6DeassertDav, 0x15#5),
     (.s7WaitDacLow, 0x16#5)]) ∧
  (∀ p q : Phase, p.code = q.code → p = q) ∧
  (∀ h : Hpe, ((regRead 0x9 h).extractLsb' 0 5).toNat ∉ [3, 4, 5, 6, 7, 23, 24, 25, 26, 27, 28, 29, 30, 31])

/-- 10_state.md R27: each pin carries its latch when OE = 1, and no pin is driven when OE = 0. The host sees a
driven pin at its latch's level. -/
def Obligations.PinsFollowOutputEnable : Prop :=
  ∀ s : State,
    (s.hpe.oe = true →
      s.hpe.pins = { dout := some s.hpe.out.dout, dav := some s.hpe.out.dav, rfd := some s.hpe.out.rfd,
                     dac := some s.hpe.out.dac } ∧
      s.hostSeesData = s.hpe.out.dout ∧ s.hostSeesLine .dav = s.hpe.out.dav ∧
      s.hostSeesLine .rfd = s.hpe.out.rfd ∧ s.hostSeesLine .dac = s.hpe.out.dac) ∧
    (s.hpe.oe = false → s.hpe.pins = { dout := none, dav := none, rfd := none, dac := none })

/-- 60_exceptions.md R170: a host step sets exactly one port, in any phase. -/
def Obligations.HostStepSetsOnePort : Prop :=
  ∀ s : State, s.env.rst = false →
    (∀ v, s.nextTurn = .host (.din v) → step s = .next (s.tick.withHpe
      { s.hpe with inp := { s.hpe.inp with din := v } })) ∧
    (∀ v, s.nextTurn = .host (.dsize v) → step s = .next (s.tick.withHpe
      { s.hpe with inp := { s.hpe.inp with dsize := v } })) ∧
    (∀ b, s.nextTurn = .host (.dav b) → step s = .next (s.tick.withHpe
      { s.hpe with inp := { s.hpe.inp with dav := b } })) ∧
    (∀ b, s.nextTurn = .host (.rfd b) → step s = .next (s.tick.withHpe
      { s.hpe with inp := { s.hpe.inp with rfd := b } })) ∧
    (∀ b, s.nextTurn = .host (.dac b) → step s = .next (s.tick.withHpe
      { s.hpe with inp := { s.hpe.inp with dac := b } })) ∧
    (∀ b, s.nextTurn = .host (.atn b) → step s = .next (s.tick.withHpe
      { s.hpe with inp := { s.hpe.inp with atn := b } })) ∧
    (∀ b, s.nextTurn = .host (.rst b) → step s = .next (s.tick.withHpe
      { s.hpe with inp := { s.hpe.inp with rst := b } }))

/-- A sample in the same instant as a change of DIN takes the free byte, whatever it is (93_implementation_defined.md
section 1; the model's form of it, log 9). -/
def Obligations.RacingSampleTakesAFreeByte : Prop :=
  ∀ (s : State) (v : Byte), s.env.rst = false → s.nextTurn = .sampleRace v →
    (s.hpe.phase = .r4Sample1 → step s = .next (s.tick.withHpe
      { s.hpe with inp := { s.hpe.inp with din := v }, rx0 := Config.tornSample (s.env.freeIndex + 1),
                   phase := .r5AssertDac })) ∧
    (s.hpe.phase = .r7Sample2 → step s = .next (s.tick.withHpe
      { s.hpe with inp := { s.hpe.inp with din := v }, rx1 := Config.tornSample (s.env.freeIndex + 1),
                   phase := .r8DeassertDac })) ∧
    (s.hpe.phase ≠ .r4Sample1 → s.hpe.phase ≠ .r7Sample2 → step s = .next (s.tick.withHpe
      { s.hpe with inp := { s.hpe.inp with din := v } }))

/-- 10_state.md R50: reset, from any state, sets every stored element to its reset value and no inbound port; the
state right after reset holds these values. -/
def Obligations.ResetValuesAreAsRuled : Prop :=
  (∀ s : State, s.nextTurn = .rst true → ∃ t, step s = .next t ∧
    t.hpe.phase = .released ∧ t.hpe.oe = false ∧
    t.hpe.out.dav = false ∧ t.hpe.out.rfd = false ∧ t.hpe.out.dac = false ∧ t.hpe.out.dout = 0x00 ∧
    t.hpe.tx0 = 0x00 ∧ t.hpe.tx1 = 0x00 ∧ t.hpe.txl0 = 0x00 ∧ t.hpe.txl1 = 0x00 ∧
    t.hpe.rx0 = 0x00 ∧ t.hpe.rx1 = 0x00 ∧ t.hpe.w = false ∧ t.hpe.done = false ∧ t.hpe.abt = false ∧
    t.hpe.rejc.code = 0b00#2 ∧ t.hpe.inp = s.hpe.inp ∧
    { t.hpe with inp := State.reset.hpe.inp } = State.reset.hpe)

/-- 70_reset_and_hazards.md R190: from the assertion of `rst`, in any phase, and in every step while it is
asserted, every stored element has its reset value; no engine step happens, no controller write has an effect, and
a read returns the reset values, with the ports live. That a host step changes its port also then is the model's
reading (log 7). -/
def Obligations.ResetHoldsEveryStoredElement : Prop :=
  (∀ s : State, s.nextTurn = .rst true →
    step s = .next { hpe := { Hpe.reset with inp := s.hpe.inp }, env := { s.tick.env with rst := true } }) ∧
  (∀ s t : State, s.env.rst = true → step s = .next t →
    t.hpe = { Hpe.reset with inp :=
      match s.nextTurn with
      | .host c => s.hpe.inp.set c
      | .sampleRace v => { s.hpe.inp with din := v }
      | .engine | .controller | .rst _ => s.hpe.inp } ∧
    (t.env.rst = true ∨ s.nextTurn = .rst false) ∧
    (∀ a x ls, s.nextTurn = .controller → s.env.program = .rd a x :: ls →
      t.env.names = (x, regRead a { Hpe.reset with inp := s.hpe.inp }) :: s.env.names))

/-- The end of a run (60_exceptions.md R174) is kept: with the program at its end, the phase at rest and nothing
scheduled, the HPE no longer changes. R174 does not say what happens after the end: that the step is then the
engine's and that a resting engine's turn changes nothing is the model's choice (log 3 and log 4). -/
def Obligations.AnEndedRunStaysAsItIs : Prop :=
  ∀ s t : State, s.ended = true → s.env.schedule = [] → s.env.rst = false → step s = .next t →
    t.hpe = s.hpe ∧ t.ended = true ∧ t.env.schedule = []

/-! ### The end of a run, and the events of a transfer step by step -/

/-- 60_exceptions.md R174: a run ends at the FIRST state in which the program is at its end and the phase is IDLE or
RELEASED; the end state is the 16 register values of 20_memory.md R61 with the pin values of 10_state.md R27. -/
def Obligations.RunEndsAtItsFirstEndedState : Prop :=
  (∀ (n : Nat) (s u : State), runEnd n s = some u ↔
    ∃ k, k ≤ n ∧ Host.Core.run Sys2Proof.core k s = .next u ∧
      (u.env.program = [] ∧ (u.hpe.phase = .idle ∨ u.hpe.phase = .released)) ∧
      ∀ j v, j < k → Host.Core.run Sys2Proof.core j s = .next v →
        ¬ (v.env.program = [] ∧ (v.hpe.phase = .idle ∨ v.hpe.phase = .released))) ∧
  (∀ s u v : State, EndsAt s u → EndsAt s v → u = v) ∧
  (∀ (u : State) (a : RegAddr), u.endState.registers[a.toNat]? = some (regRead a u.hpe)) ∧
  (∀ u : State, u.endState.pins =
    if u.hpe.oe then
      { dout := some u.hpe.out.dout, dav := some u.hpe.out.dav, rfd := some u.hpe.out.rfd, dac := some u.hpe.out.dac }
    else { dout := none, dav := none, rfd := none, dac := none })

/-- The two runs of 60_exceptions.md R174 that do not end: a held engine, where the program releases nothing and the
host and `rst` stay silent; and a controller that spins in a POLL beside an engine without a step. The schedule and
its continuation are the model's (log 2, log 3), and so are the turns without an effect (log 4). -/
def Obligations.StalledRunsDoNotEnd : Prop :=
  ∀ s : State, s.env.rst = false → (∀ t ∈ s.env.schedule, t = .engine ∨ t = .controller) →
    (s.hpe.waitCondition = some false → ProgLine.wr 0x0 0x07 ∉ s.env.program → ∀ u, ¬ EndsAt s u) ∧
    (∀ a mask val ls, s.env.program = .poll a mask val :: ls → regRead a s.hpe &&& mask ≠ val →
      engineStep s.hpe = none → ∀ u, ¬ EndsAt s u)

/-- The events shown so far follow the phase (40_send.md R112, 41_receive.md R134), step by step and whoever moves:
a transfer starts with none shown; each step of a transfer adds its events to those of the phase it leaves; and a
completing step leaves exactly the events of the whole transfer. -/
def Obligations.EventsFollowThePhase : Prop :=
  ∀ s t : State, s.Inv → step s = .next t →
    (s.hpe.busy = false → stepEvents s t = [] ∧ t.hpe.eventsBefore = []) ∧
    (s.hpe.busy = true → t.hpe.busy = true → t.hpe.eventsBefore = s.hpe.eventsBefore ++ stepEvents s t) ∧
    (s.hpe.busy = true → t.hpe.phase = .idle →
      (s.hpe.phase.isSend = true → s.hpe.eventsBefore ++ stepEvents s t = t.hpe.sendEvents) ∧
      (s.hpe.phase.isSend = false → s.hpe.eventsBefore ++ stepEvents s t = t.hpe.receiveEvents))
end

