-- ==== Sys2Proof/Laws/Decode.lean ====
section
/-! SUPPORT. The fields of a byte and the byte of the fields agree, and decoding follows the three checks of
WellFormed. -/

namespace Sys2Proof

theorem Cmd8.toByte_ofByte (v : Byte) : (Cmd8.ofByte v).toByte = v := by
  revert v; decide

theorem Cmd8.ofByte_toByte (c : Cmd8) : Cmd8.ofByte c.toByte = c := by
  obtain ⟨rsv, w, op⟩ := c
  revert rsv w op; decide

theorem Instr.fields_wellFormed (i : Instr) : i.fields.wellFormed = true := by
  cases i <;> rfl

theorem Cmd8.ofByte_encode (i : Instr) : Cmd8.ofByte (encode i) = i.fields :=
  Cmd8.ofByte_toByte i.fields

/-- What `decodeOp` can answer with an operation: the field table of 30_encoding.md R81. -/
theorem decodeOp_ok {w : Bool} {op : BitVec 3} {i : Instr} (e : decodeOp w op.toNat = .ok i) :
    i.fields = { rsv := 0b0000, w := w, op := op } := by
  revert op; cases w <;> cases i <;> decide

/-- Only the byte of an operation decodes to it. -/
theorem eq_encode_of_decode {v : Byte} {i : Instr} (e : decode v = .ok i) : v = encode i := by
  revert v; cases i <;> decide

/-- A byte decodes exactly when its fields pass the three checks. -/
theorem decode_illegal_iff (v : Byte) : (decode v).toOption = none ↔ (Cmd8.ofByte v).wellFormed = false := by
  revert v; decide

end Sys2Proof
end

