-- ==== Sys2Proof/Laws/Ending.lean ====
section
/-! SUPPORT. The search for the end of a run, one step at a time. -/

namespace Sys2Proof.Machine

theorem State.ended_iff (s : State) : s.ended = true ↔ s.env.program = [] ∧ s.hpe.busy = false := by
  simp [State.ended]

theorem runEnd_of_ended {s : State} (h : s.ended = true) (n : Nat) : runEnd n s = some s := by
  cases n <;> simp [runEnd, h]

theorem runEnd_zero_of_running {s : State} (h : s.ended = false) : runEnd 0 s = none := by
  simp [runEnd, h]

theorem runEnd_succ_of_running {s t : State} (h : s.ended = false) (e : step s = .next t) (n : Nat) :
    runEnd (n + 1) s = runEnd n t := by
  simp [runEnd, h, e]

@[simp] theorem State.endState_pins (s : State) : s.endState.pins = s.hpe.pins := rfl

@[simp] theorem State.endState_registers_length (s : State) : s.endState.registers.length = 16 := rfl

end Sys2Proof.Machine
end

