-- ==== Sys2Proof/Laws/State.lean ====
section
/-! SUPPORT. One lemma per field and update: the named updates of the HPE and of the machine, so that no proof
unfolds a record update. -/

namespace Sys2Proof.Machine

section HpeUpdates

variable (h : Hpe)

@[simp] theorem Hpe.goTo_inp (p : Phase) : (h.goTo p).inp = h.inp := rfl
@[simp] theorem Hpe.goTo_out (p : Phase) : (h.goTo p).out = h.out := rfl
@[simp] theorem Hpe.goTo_oe (p : Phase) : (h.goTo p).oe = h.oe := rfl
@[simp] theorem Hpe.goTo_tx0 (p : Phase) : (h.goTo p).tx0 = h.tx0 := rfl
@[simp] theorem Hpe.goTo_tx1 (p : Phase) : (h.goTo p).tx1 = h.tx1 := rfl
@[simp] theorem Hpe.goTo_rx0 (p : Phase) : (h.goTo p).rx0 = h.rx0 := rfl
@[simp] theorem Hpe.goTo_rx1 (p : Phase) : (h.goTo p).rx1 = h.rx1 := rfl
@[simp] theorem Hpe.goTo_phase (p : Phase) : (h.goTo p).phase = p := rfl
@[simp] theorem Hpe.goTo_w (p : Phase) : (h.goTo p).w = h.w := rfl
@[simp] theorem Hpe.goTo_txl0 (p : Phase) : (h.goTo p).txl0 = h.txl0 := rfl
@[simp] theorem Hpe.goTo_txl1 (p : Phase) : (h.goTo p).txl1 = h.txl1 := rfl
@[simp] theorem Hpe.goTo_done (p : Phase) : (h.goTo p).done = h.done := rfl
@[simp] theorem Hpe.goTo_abt (p : Phase) : (h.goTo p).abt = h.abt := rfl
@[simp] theorem Hpe.goTo_rejc (p : Phase) : (h.goTo p).rejc = h.rejc := rfl

@[simp] theorem Hpe.reject_inp (c : Rejection) : (h.reject c).inp = h.inp := rfl
@[simp] theorem Hpe.reject_out (c : Rejection) : (h.reject c).out = h.out := rfl
@[simp] theorem Hpe.reject_oe (c : Rejection) : (h.reject c).oe = h.oe := rfl
@[simp] theorem Hpe.reject_tx0 (c : Rejection) : (h.reject c).tx0 = h.tx0 := rfl
@[simp] theorem Hpe.reject_tx1 (c : Rejection) : (h.reject c).tx1 = h.tx1 := rfl
@[simp] theorem Hpe.reject_rx0 (c : Rejection) : (h.reject c).rx0 = h.rx0 := rfl
@[simp] theorem Hpe.reject_rx1 (c : Rejection) : (h.reject c).rx1 = h.rx1 := rfl
@[simp] theorem Hpe.reject_phase (c : Rejection) : (h.reject c).phase = h.phase := rfl
@[simp] theorem Hpe.reject_w (c : Rejection) : (h.reject c).w = h.w := rfl
@[simp] theorem Hpe.reject_txl0 (c : Rejection) : (h.reject c).txl0 = h.txl0 := rfl
@[simp] theorem Hpe.reject_txl1 (c : Rejection) : (h.reject c).txl1 = h.txl1 := rfl
@[simp] theorem Hpe.reject_done (c : Rejection) : (h.reject c).done = h.done := rfl
@[simp] theorem Hpe.reject_abt (c : Rejection) : (h.reject c).abt = h.abt := rfl
@[simp] theorem Hpe.reject_rejc (c : Rejection) : (h.reject c).rejc = c := rfl

@[simp] theorem Hpe.clearStatus_inp : (h.clearStatus).inp = h.inp := rfl
@[simp] theorem Hpe.clearStatus_out : (h.clearStatus).out = h.out := rfl
@[simp] theorem Hpe.clearStatus_oe : (h.clearStatus).oe = h.oe := rfl
@[simp] theorem Hpe.clearStatus_tx0 : (h.clearStatus).tx0 = h.tx0 := rfl
@[simp] theorem Hpe.clearStatus_tx1 : (h.clearStatus).tx1 = h.tx1 := rfl
@[simp] theorem Hpe.clearStatus_rx0 : (h.clearStatus).rx0 = h.rx0 := rfl
@[simp] theorem Hpe.clearStatus_rx1 : (h.clearStatus).rx1 = h.rx1 := rfl
@[simp] theorem Hpe.clearStatus_phase : (h.clearStatus).phase = h.phase := rfl
@[simp] theorem Hpe.clearStatus_w : (h.clearStatus).w = h.w := rfl
@[simp] theorem Hpe.clearStatus_txl0 : (h.clearStatus).txl0 = h.txl0 := rfl
@[simp] theorem Hpe.clearStatus_txl1 : (h.clearStatus).txl1 = h.txl1 := rfl
@[simp] theorem Hpe.clearStatus_done : (h.clearStatus).done = false := rfl
@[simp] theorem Hpe.clearStatus_abt : (h.clearStatus).abt = false := rfl
@[simp] theorem Hpe.clearStatus_rejc : (h.clearStatus).rejc = .none := rfl

@[simp] theorem Hpe.complete_inp : (h.complete).inp = h.inp := rfl
@[simp] theorem Hpe.complete_out : (h.complete).out = h.out := rfl
@[simp] theorem Hpe.complete_oe : (h.complete).oe = h.oe := rfl
@[simp] theorem Hpe.complete_tx0 : (h.complete).tx0 = h.tx0 := rfl
@[simp] theorem Hpe.complete_tx1 : (h.complete).tx1 = h.tx1 := rfl
@[simp] theorem Hpe.complete_rx0 : (h.complete).rx0 = h.rx0 := rfl
@[simp] theorem Hpe.complete_rx1 : (h.complete).rx1 = h.rx1 := rfl
@[simp] theorem Hpe.complete_phase : (h.complete).phase = .idle := rfl
@[simp] theorem Hpe.complete_w : (h.complete).w = h.w := rfl
@[simp] theorem Hpe.complete_txl0 : (h.complete).txl0 = h.txl0 := rfl
@[simp] theorem Hpe.complete_txl1 : (h.complete).txl1 = h.txl1 := rfl
@[simp] theorem Hpe.complete_done : (h.complete).done = true := rfl
@[simp] theorem Hpe.complete_abt : (h.complete).abt = h.abt := rfl
@[simp] theorem Hpe.complete_rejc : (h.complete).rejc = h.rejc := rfl

@[simp] theorem Hpe.latchSend_inp : (h.latchSend).inp = h.inp := rfl
@[simp] theorem Hpe.latchSend_out : (h.latchSend).out = h.out := rfl
@[simp] theorem Hpe.latchSend_oe : (h.latchSend).oe = h.oe := rfl
@[simp] theorem Hpe.latchSend_tx0 : (h.latchSend).tx0 = h.tx0 := rfl
@[simp] theorem Hpe.latchSend_tx1 : (h.latchSend).tx1 = h.tx1 := rfl
@[simp] theorem Hpe.latchSend_rx0 : (h.latchSend).rx0 = h.rx0 := rfl
@[simp] theorem Hpe.latchSend_rx1 : (h.latchSend).rx1 = h.rx1 := rfl
@[simp] theorem Hpe.latchSend_phase : (h.latchSend).phase = h.phase := rfl
@[simp] theorem Hpe.latchSend_w : (h.latchSend).w = h.w := rfl
@[simp] theorem Hpe.latchSend_txl0 : (h.latchSend).txl0 = h.tx0 := rfl
@[simp] theorem Hpe.latchSend_txl1 : (h.latchSend).txl1 = h.tx1 := rfl
@[simp] theorem Hpe.latchSend_done : (h.latchSend).done = h.done := rfl
@[simp] theorem Hpe.latchSend_abt : (h.latchSend).abt = h.abt := rfl
@[simp] theorem Hpe.latchSend_rejc : (h.latchSend).rejc = h.rejc := rfl

@[simp] theorem Hpe.setWidth_inp (b : Bool) : (h.setWidth b).inp = h.inp := rfl
@[simp] theorem Hpe.setWidth_out (b : Bool) : (h.setWidth b).out = h.out := rfl
@[simp] theorem Hpe.setWidth_oe (b : Bool) : (h.setWidth b).oe = h.oe := rfl
@[simp] theorem Hpe.setWidth_tx0 (b : Bool) : (h.setWidth b).tx0 = h.tx0 := rfl
@[simp] theorem Hpe.setWidth_tx1 (b : Bool) : (h.setWidth b).tx1 = h.tx1 := rfl
@[simp] theorem Hpe.setWidth_rx0 (b : Bool) : (h.setWidth b).rx0 = h.rx0 := rfl
@[simp] theorem Hpe.setWidth_rx1 (b : Bool) : (h.setWidth b).rx1 = h.rx1 := rfl
@[simp] theorem Hpe.setWidth_phase (b : Bool) : (h.setWidth b).phase = h.phase := rfl
@[simp] theorem Hpe.setWidth_w (b : Bool) : (h.setWidth b).w = b := rfl
@[simp] theorem Hpe.setWidth_txl0 (b : Bool) : (h.setWidth b).txl0 = h.txl0 := rfl
@[simp] theorem Hpe.setWidth_txl1 (b : Bool) : (h.setWidth b).txl1 = h.txl1 := rfl
@[simp] theorem Hpe.setWidth_done (b : Bool) : (h.setWidth b).done = h.done := rfl
@[simp] theorem Hpe.setWidth_abt (b : Bool) : (h.setWidth b).abt = h.abt := rfl
@[simp] theorem Hpe.setWidth_rejc (b : Bool) : (h.setWidth b).rejc = h.rejc := rfl

@[simp] theorem Hpe.setOe_inp (b : Bool) : (h.setOe b).inp = h.inp := rfl
@[simp] theorem Hpe.setOe_out (b : Bool) : (h.setOe b).out = h.out := rfl
@[simp] theorem Hpe.setOe_oe (b : Bool) : (h.setOe b).oe = b := rfl
@[simp] theorem Hpe.setOe_tx0 (b : Bool) : (h.setOe b).tx0 = h.tx0 := rfl
@[simp] theorem Hpe.setOe_tx1 (b : Bool) : (h.setOe b).tx1 = h.tx1 := rfl
@[simp] theorem Hpe.setOe_rx0 (b : Bool) : (h.setOe b).rx0 = h.rx0 := rfl
@[simp] theorem Hpe.setOe_rx1 (b : Bool) : (h.setOe b).rx1 = h.rx1 := rfl
@[simp] theorem Hpe.setOe_phase (b : Bool) : (h.setOe b).phase = h.phase := rfl
@[simp] theorem Hpe.setOe_w (b : Bool) : (h.setOe b).w = h.w := rfl
@[simp] theorem Hpe.setOe_txl0 (b : Bool) : (h.setOe b).txl0 = h.txl0 := rfl
@[simp] theorem Hpe.setOe_txl1 (b : Bool) : (h.setOe b).txl1 = h.txl1 := rfl
@[simp] theorem Hpe.setOe_done (b : Bool) : (h.setOe b).done = h.done := rfl
@[simp] theorem Hpe.setOe_abt (b : Bool) : (h.setOe b).abt = h.abt := rfl
@[simp] theorem Hpe.setOe_rejc (b : Bool) : (h.setOe b).rejc = h.rejc := rfl

@[simp] theorem Hpe.idleLatches_inp : (h.idleLatches).inp = h.inp := rfl
@[simp] theorem Hpe.idleLatches_out : (h.idleLatches).out = { h.out with dav := false, rfd := false, dac := false } := rfl
@[simp] theorem Hpe.idleLatches_oe : (h.idleLatches).oe = h.oe := rfl
@[simp] theorem Hpe.idleLatches_tx0 : (h.idleLatches).tx0 = h.tx0 := rfl
@[simp] theorem Hpe.idleLatches_tx1 : (h.idleLatches).tx1 = h.tx1 := rfl
@[simp] theorem Hpe.idleLatches_rx0 : (h.idleLatches).rx0 = h.rx0 := rfl
@[simp] theorem Hpe.idleLatches_rx1 : (h.idleLatches).rx1 = h.rx1 := rfl
@[simp] theorem Hpe.idleLatches_phase : (h.idleLatches).phase = h.phase := rfl
@[simp] theorem Hpe.idleLatches_w : (h.idleLatches).w = h.w := rfl
@[simp] theorem Hpe.idleLatches_txl0 : (h.idleLatches).txl0 = h.txl0 := rfl
@[simp] theorem Hpe.idleLatches_txl1 : (h.idleLatches).txl1 = h.txl1 := rfl
@[simp] theorem Hpe.idleLatches_done : (h.idleLatches).done = h.done := rfl
@[simp] theorem Hpe.idleLatches_abt : (h.idleLatches).abt = h.abt := rfl
@[simp] theorem Hpe.idleLatches_rejc : (h.idleLatches).rejc = h.rejc := rfl

@[simp] theorem Hpe.setDout_inp (v : Byte) : (h.setDout v).inp = h.inp := rfl
@[simp] theorem Hpe.setDout_out (v : Byte) : (h.setDout v).out = { h.out with dout := v } := rfl
@[simp] theorem Hpe.setDout_oe (v : Byte) : (h.setDout v).oe = h.oe := rfl
@[simp] theorem Hpe.setDout_tx0 (v : Byte) : (h.setDout v).tx0 = h.tx0 := rfl
@[simp] theorem Hpe.setDout_tx1 (v : Byte) : (h.setDout v).tx1 = h.tx1 := rfl
@[simp] theorem Hpe.setDout_rx0 (v : Byte) : (h.setDout v).rx0 = h.rx0 := rfl
@[simp] theorem Hpe.setDout_rx1 (v : Byte) : (h.setDout v).rx1 = h.rx1 := rfl
@[simp] theorem Hpe.setDout_phase (v : Byte) : (h.setDout v).phase = h.phase := rfl
@[simp] theorem Hpe.setDout_w (v : Byte) : (h.setDout v).w = h.w := rfl
@[simp] theorem Hpe.setDout_txl0 (v : Byte) : (h.setDout v).txl0 = h.txl0 := rfl
@[simp] theorem Hpe.setDout_txl1 (v : Byte) : (h.setDout v).txl1 = h.txl1 := rfl
@[simp] theorem Hpe.setDout_done (v : Byte) : (h.setDout v).done = h.done := rfl
@[simp] theorem Hpe.setDout_abt (v : Byte) : (h.setDout v).abt = h.abt := rfl
@[simp] theorem Hpe.setDout_rejc (v : Byte) : (h.setDout v).rejc = h.rejc := rfl

@[simp] theorem Hpe.setDav_inp (b : Bool) : (h.setDav b).inp = h.inp := rfl
@[simp] theorem Hpe.setDav_out (b : Bool) : (h.setDav b).out = { h.out with dav := b } := rfl
@[simp] theorem Hpe.setDav_oe (b : Bool) : (h.setDav b).oe = h.oe := rfl
@[simp] theorem Hpe.setDav_tx0 (b : Bool) : (h.setDav b).tx0 = h.tx0 := rfl
@[simp] theorem Hpe.setDav_tx1 (b : Bool) : (h.setDav b).tx1 = h.tx1 := rfl
@[simp] theorem Hpe.setDav_rx0 (b : Bool) : (h.setDav b).rx0 = h.rx0 := rfl
@[simp] theorem Hpe.setDav_rx1 (b : Bool) : (h.setDav b).rx1 = h.rx1 := rfl
@[simp] theorem Hpe.setDav_phase (b : Bool) : (h.setDav b).phase = h.phase := rfl
@[simp] theorem Hpe.setDav_w (b : Bool) : (h.setDav b).w = h.w := rfl
@[simp] theorem Hpe.setDav_txl0 (b : Bool) : (h.setDav b).txl0 = h.txl0 := rfl
@[simp] theorem Hpe.setDav_txl1 (b : Bool) : (h.setDav b).txl1 = h.txl1 := rfl
@[simp] theorem Hpe.setDav_done (b : Bool) : (h.setDav b).done = h.done := rfl
@[simp] theorem Hpe.setDav_abt (b : Bool) : (h.setDav b).abt = h.abt := rfl
@[simp] theorem Hpe.setDav_rejc (b : Bool) : (h.setDav b).rejc = h.rejc := rfl

@[simp] theorem Hpe.setRfd_inp (b : Bool) : (h.setRfd b).inp = h.inp := rfl
@[simp] theorem Hpe.setRfd_out (b : Bool) : (h.setRfd b).out = { h.out with rfd := b } := rfl
@[simp] theorem Hpe.setRfd_oe (b : Bool) : (h.setRfd b).oe = h.oe := rfl
@[simp] theorem Hpe.setRfd_tx0 (b : Bool) : (h.setRfd b).tx0 = h.tx0 := rfl
@[simp] theorem Hpe.setRfd_tx1 (b : Bool) : (h.setRfd b).tx1 = h.tx1 := rfl
@[simp] theorem Hpe.setRfd_rx0 (b : Bool) : (h.setRfd b).rx0 = h.rx0 := rfl
@[simp] theorem Hpe.setRfd_rx1 (b : Bool) : (h.setRfd b).rx1 = h.rx1 := rfl
@[simp] theorem Hpe.setRfd_phase (b : Bool) : (h.setRfd b).phase = h.phase := rfl
@[simp] theorem Hpe.setRfd_w (b : Bool) : (h.setRfd b).w = h.w := rfl
@[simp] theorem Hpe.setRfd_txl0 (b : Bool) : (h.setRfd b).txl0 = h.txl0 := rfl
@[simp] theorem Hpe.setRfd_txl1 (b : Bool) : (h.setRfd b).txl1 = h.txl1 := rfl
@[simp] theorem Hpe.setRfd_done (b : Bool) : (h.setRfd b).done = h.done := rfl
@[simp] theorem Hpe.setRfd_abt (b : Bool) : (h.setRfd b).abt = h.abt := rfl
@[simp] theorem Hpe.setRfd_rejc (b : Bool) : (h.setRfd b).rejc = h.rejc := rfl

@[simp] theorem Hpe.setDac_inp (b : Bool) : (h.setDac b).inp = h.inp := rfl
@[simp] theorem Hpe.setDac_out (b : Bool) : (h.setDac b).out = { h.out with dac := b } := rfl
@[simp] theorem Hpe.setDac_oe (b : Bool) : (h.setDac b).oe = h.oe := rfl
@[simp] theorem Hpe.setDac_tx0 (b : Bool) : (h.setDac b).tx0 = h.tx0 := rfl
@[simp] theorem Hpe.setDac_tx1 (b : Bool) : (h.setDac b).tx1 = h.tx1 := rfl
@[simp] theorem Hpe.setDac_rx0 (b : Bool) : (h.setDac b).rx0 = h.rx0 := rfl
@[simp] theorem Hpe.setDac_rx1 (b : Bool) : (h.setDac b).rx1 = h.rx1 := rfl
@[simp] theorem Hpe.setDac_phase (b : Bool) : (h.setDac b).phase = h.phase := rfl
@[simp] theorem Hpe.setDac_w (b : Bool) : (h.setDac b).w = h.w := rfl
@[simp] theorem Hpe.setDac_txl0 (b : Bool) : (h.setDac b).txl0 = h.txl0 := rfl
@[simp] theorem Hpe.setDac_txl1 (b : Bool) : (h.setDac b).txl1 = h.txl1 := rfl
@[simp] theorem Hpe.setDac_done (b : Bool) : (h.setDac b).done = h.done := rfl
@[simp] theorem Hpe.setDac_abt (b : Bool) : (h.setDac b).abt = h.abt := rfl
@[simp] theorem Hpe.setDac_rejc (b : Bool) : (h.setDac b).rejc = h.rejc := rfl

@[simp] theorem Hpe.setPort_inp (c : PortChange) : (h.setPort c).inp = h.inp.set c := rfl
@[simp] theorem Hpe.setPort_out (c : PortChange) : (h.setPort c).out = h.out := rfl
@[simp] theorem Hpe.setPort_oe (c : PortChange) : (h.setPort c).oe = h.oe := rfl
@[simp] theorem Hpe.setPort_tx0 (c : PortChange) : (h.setPort c).tx0 = h.tx0 := rfl
@[simp] theorem Hpe.setPort_tx1 (c : PortChange) : (h.setPort c).tx1 = h.tx1 := rfl
@[simp] theorem Hpe.setPort_rx0 (c : PortChange) : (h.setPort c).rx0 = h.rx0 := rfl
@[simp] theorem Hpe.setPort_rx1 (c : PortChange) : (h.setPort c).rx1 = h.rx1 := rfl
@[simp] theorem Hpe.setPort_phase (c : PortChange) : (h.setPort c).phase = h.phase := rfl
@[simp] theorem Hpe.setPort_w (c : PortChange) : (h.setPort c).w = h.w := rfl
@[simp] theorem Hpe.setPort_txl0 (c : PortChange) : (h.setPort c).txl0 = h.txl0 := rfl
@[simp] theorem Hpe.setPort_txl1 (c : PortChange) : (h.setPort c).txl1 = h.txl1 := rfl
@[simp] theorem Hpe.setPort_done (c : PortChange) : (h.setPort c).done = h.done := rfl
@[simp] theorem Hpe.setPort_abt (c : PortChange) : (h.setPort c).abt = h.abt := rfl
@[simp] theorem Hpe.setPort_rejc (c : PortChange) : (h.setPort c).rejc = h.rejc := rfl

@[simp] theorem Hpe.resetStored_inp : h.resetStored.inp = h.inp := rfl
@[simp] theorem Hpe.resetStored_out : h.resetStored.out = Hpe.reset.out := rfl
@[simp] theorem Hpe.resetStored_oe : h.resetStored.oe = Hpe.reset.oe := rfl
@[simp] theorem Hpe.resetStored_tx0 : h.resetStored.tx0 = Hpe.reset.tx0 := rfl
@[simp] theorem Hpe.resetStored_tx1 : h.resetStored.tx1 = Hpe.reset.tx1 := rfl
@[simp] theorem Hpe.resetStored_rx0 : h.resetStored.rx0 = Hpe.reset.rx0 := rfl
@[simp] theorem Hpe.resetStored_rx1 : h.resetStored.rx1 = Hpe.reset.rx1 := rfl
@[simp] theorem Hpe.resetStored_phase : h.resetStored.phase = Hpe.reset.phase := rfl
@[simp] theorem Hpe.resetStored_w : h.resetStored.w = Hpe.reset.w := rfl
@[simp] theorem Hpe.resetStored_txl0 : h.resetStored.txl0 = Hpe.reset.txl0 := rfl
@[simp] theorem Hpe.resetStored_txl1 : h.resetStored.txl1 = Hpe.reset.txl1 := rfl
@[simp] theorem Hpe.resetStored_done : h.resetStored.done = Hpe.reset.done := rfl
@[simp] theorem Hpe.resetStored_abt : h.resetStored.abt = Hpe.reset.abt := rfl
@[simp] theorem Hpe.resetStored_rejc : h.resetStored.rejc = Hpe.reset.rejc := rfl

@[simp] theorem Hpe.resetStored_resetStored : h.resetStored.resetStored = h.resetStored := rfl

@[simp] theorem Hpe.resetStored_setPort (c : PortChange) :
    (h.setPort c).resetStored = h.resetStored.setPort c := rfl

end HpeUpdates

section StateUpdates

variable (s : State)

@[simp] theorem State.withHpe_hpe (h : Hpe) : (s.withHpe h).hpe = h := rfl
@[simp] theorem State.withHpe_env (h : Hpe) : (s.withHpe h).env = s.env := rfl

@[simp] theorem State.reject_hpe (c : Rejection) : (s.reject c).hpe = s.hpe.reject c := rfl
@[simp] theorem State.reject_env (c : Rejection) : (s.reject c).env = s.env := rfl

@[simp] theorem State.withProgram_hpe (ls : List ProgLine) : (s.withProgram ls).hpe = s.hpe := rfl
@[simp] theorem State.withProgram_rst (ls : List ProgLine) : (s.withProgram ls).env.rst = s.env.rst := rfl
@[simp] theorem State.withProgram_schedule (ls : List ProgLine) : (s.withProgram ls).env.schedule = s.env.schedule := rfl
@[simp] theorem State.withProgram_program (ls : List ProgLine) : (s.withProgram ls).env.program = ls := rfl
@[simp] theorem State.withProgram_names (ls : List ProgLine) : (s.withProgram ls).env.names = s.env.names := rfl
@[simp] theorem State.withProgram_freeIndex (ls : List ProgLine) : (s.withProgram ls).env.freeIndex = s.env.freeIndex := rfl

@[simp] theorem State.bindName_hpe (x : Nat) (v : Byte) : (s.bindName x v).hpe = s.hpe := rfl
@[simp] theorem State.bindName_rst (x : Nat) (v : Byte) : (s.bindName x v).env.rst = s.env.rst := rfl
@[simp] theorem State.bindName_schedule (x : Nat) (v : Byte) : (s.bindName x v).env.schedule = s.env.schedule := rfl
@[simp] theorem State.bindName_program (x : Nat) (v : Byte) : (s.bindName x v).env.program = s.env.program := rfl
@[simp] theorem State.bindName_names (x : Nat) (v : Byte) : (s.bindName x v).env.names = (x, v) :: s.env.names := rfl
@[simp] theorem State.bindName_freeIndex (x : Nat) (v : Byte) : (s.bindName x v).env.freeIndex = s.env.freeIndex := rfl

@[simp] theorem State.tick_hpe : (s.tick).hpe = s.hpe := rfl
@[simp] theorem State.tick_rst : (s.tick).env.rst = s.env.rst := rfl
@[simp] theorem State.tick_schedule : (s.tick).env.schedule = s.env.schedule.tail := rfl
@[simp] theorem State.tick_program : (s.tick).env.program = s.env.program := rfl
@[simp] theorem State.tick_names : (s.tick).env.names = s.env.names := rfl
@[simp] theorem State.tick_freeIndex : (s.tick).env.freeIndex = s.env.freeIndex + 1 := rfl

@[simp] theorem State.driveRst_hpe (b : Bool) : (s.driveRst b).hpe = if b then s.hpe.resetStored else s.hpe := rfl
@[simp] theorem State.driveRst_rst (b : Bool) : (s.driveRst b).env.rst = b := rfl
@[simp] theorem State.driveRst_schedule (b : Bool) : (s.driveRst b).env.schedule = s.env.schedule := rfl
@[simp] theorem State.driveRst_program (b : Bool) : (s.driveRst b).env.program = s.env.program := rfl
@[simp] theorem State.driveRst_names (b : Bool) : (s.driveRst b).env.names = s.env.names := rfl
@[simp] theorem State.driveRst_freeIndex (b : Bool) : (s.driveRst b).env.freeIndex = s.env.freeIndex := rfl

@[simp] theorem State.holdReset_env : s.holdReset.env = s.env := by
  unfold State.holdReset; split <;> rfl

theorem State.holdReset_of_released (e : s.env.rst = false) : s.holdReset = s := by
  simp [State.holdReset, e]

theorem State.holdReset_of_asserted (e : s.env.rst = true) : s.holdReset = s.withHpe s.hpe.resetStored := by
  simp [State.holdReset, e]

@[simp] theorem State.holdReset_inp : s.holdReset.hpe.inp = s.hpe.inp := by
  unfold State.holdReset; split <;> rfl

end StateUpdates

end Sys2Proof.Machine
end

