-- ==== Sys2Proof/Laws/Ops.lean ====
section
/-! SUPPORT. What each shared operation can do, said once. -/

namespace Sys2Proof.Machine

theorem waitUntil_eq_some {c : Bool} {h h' : Hpe} : waitUntil c h = some h' ↔ c = true ∧ h' = h := by
  cases c <;> simp [waitUntil, eq_comm]

/-- A transfer operation's CMD write always answers, in one of three ways (60_exceptions.md R160). -/
theorem startTransfer_cases (f : Hpe → Hpe) (s : State) :
    (s.hpe.phase = .released ∧ startTransfer f s = .next (s.reject .released)) ∨
    (s.hpe.busy = true ∧ startTransfer f s = .next (s.reject .busy)) ∨
    (s.hpe.phase = .idle ∧ startTransfer f s = .next (s.withHpe (f s.hpe.clearStatus))) := by
  unfold startTransfer Hpe.busy
  by_cases e₁ : s.hpe.phase = .released
  · exact .inl ⟨e₁, if_pos e₁⟩
  · by_cases e₂ : s.hpe.phase = .idle
    · exact .inr (.inr ⟨e₂, by simp [e₂]⟩)
    · refine .inr (.inl ⟨?_, by simp [e₁, e₂]⟩)
      revert e₁ e₂; cases s.hpe.phase <;> simp [Phase.busy]

/-- BUSY is 0 in the two rest phases only (10_state.md R36). -/
theorem Hpe.busy_eq_false {h : Hpe} : h.busy = false ↔ h.phase = .released ∨ h.phase = .idle := by
  unfold Hpe.busy; cases h.phase <;> simp [Phase.busy]

theorem Hpe.busy_eq_decide (h : Hpe) : h.busy = decide (h.phase ≠ .released ∧ h.phase ≠ .idle) := by
  unfold Hpe.busy; cases h.phase <;> rfl

theorem Hpe.not_busy_of_idle {h : Hpe} (e : h.phase = .idle) : h.busy = false := Hpe.busy_eq_false.2 (.inr e)

theorem Hpe.not_busy_of_released {h : Hpe} (e : h.phase = .released) : h.busy = false :=
  Hpe.busy_eq_false.2 (.inl e)

/-- ENABLE's CMD write answers in one of two ways (42_control.md R142). -/
theorem execEnable_cases (s : State) :
    (s.hpe.busy = true ∧ execEnable s = .next (s.reject .busy)) ∨
    (s.hpe.busy = false ∧
      execEnable s = .next (s.withHpe ((s.hpe.clearStatus.idleLatches.setOe true).goTo .idle))) := by
  unfold execEnable; cases s.hpe.busy <;> simp

/-- Every CMD write of a legal byte changes the HPE only, and always answers a next state. -/
theorem exec_answers (i : Instr) (s : State) : ∃ h, exec i s = .next (s.withHpe h) := by
  have transfer : ∀ f, ∃ h, startTransfer f s = .next (s.withHpe h) := by
    intro f
    rcases startTransfer_cases f s with ⟨-, e⟩ | ⟨-, e⟩ | ⟨-, e⟩ <;> exact ⟨_, e⟩
  cases i with
  | nop => exact ⟨s.hpe, rfl⟩
  | enable => rcases execEnable_cases s with ⟨-, e⟩ | ⟨-, e⟩ <;> exact ⟨_, e⟩
  | release => exact ⟨_, rfl⟩
  | send1 => exact transfer _
  | send2 => exact transfer _
  | recv1 => exact transfer _
  | recv2 => exact transfer _
  | awaitcmd => exact transfer _

/-- The two ways of a CMD write: a legal byte runs its operation, an illegal one is rejected
(60_exceptions.md R160). -/
theorem cmdWrite_cases (v : Byte) (s : State) :
    (∃ i, decode v = .ok i ∧ cmdWrite v s = exec i s) ∨
    (∃ e, decode v = .error e ∧ cmdWrite v s = .next (s.reject .illegal)) := by
  unfold cmdWrite
  cases e : decode v with
  | ok i => exact .inl ⟨i, rfl, rfl⟩
  | error x => exact .inr ⟨x, rfl, rfl⟩

theorem cmdWrite_answers (v : Byte) (s : State) : ∃ h, cmdWrite v s = .next (s.withHpe h) := by
  rcases cmdWrite_cases v s with ⟨i, -, e⟩ | ⟨-, -, e⟩
  · exact e ▸ exec_answers i s
  · exact ⟨_, e⟩

/-- What a register write can do while `rst` is released (20_memory.md R62). -/
theorem regWrite_cases (a : RegAddr) (v : Byte) (s : State) (e : s.env.rst = false) :
    (a = 0x0 ∧ regWrite a v s = cmdWrite v s) ∨
    (a = 0x2 ∧ regWrite a v s = .next (s.withHpe { s.hpe with tx0 := v })) ∨
    (a = 0x3 ∧ regWrite a v s = .next (s.withHpe { s.hpe with tx1 := v })) ∨
    (a ≠ 0x0 ∧ a ≠ 0x2 ∧ a ≠ 0x3 ∧ regWrite a v s = .next s) := by
  unfold regWrite
  rw [if_neg (by simp [e])]
  split
  · next h => exact .inl ⟨BitVec.eq_of_toNat_eq h, rfl⟩
  · next h => exact .inr (.inl ⟨BitVec.eq_of_toNat_eq h, rfl⟩)
  · next h => exact .inr (.inr (.inl ⟨BitVec.eq_of_toNat_eq h, rfl⟩))
  · next h₀ h₂ h₃ =>
    refine .inr (.inr (.inr ⟨?_, ?_, ?_, rfl⟩)) <;> rintro rfl
    · exact h₀ rfl
    · exact h₂ rfl
    · exact h₃ rfl

/-- While `rst` is asserted a register write has no effect (70_reset_and_hazards.md R190). -/
theorem regWrite_of_asserted (a : RegAddr) (v : Byte) (s : State) (e : s.env.rst = true) :
    regWrite a v s = .next s := by
  simp [regWrite, e]

theorem regWrite_answers (a : RegAddr) (v : Byte) (s : State) : ∃ h, regWrite a v s = .next (s.withHpe h) := by
  cases e : s.env.rst with
  | true => exact ⟨s.hpe, regWrite_of_asserted a v s e⟩
  | false =>
    rcases regWrite_cases a v s e with ⟨-, h⟩ | ⟨-, h⟩ | ⟨-, h⟩ | ⟨-, -, -, h⟩
    · exact h ▸ cmdWrite_answers v s
    · exact ⟨_, h⟩
    · exact ⟨_, h⟩
    · exact ⟨s.hpe, h⟩

/-- The controller's turn: a write line is its `RegWrite`, and every other line leaves the HPE alone. -/
theorem controllerTurn_cases (s : State) :
    (∃ a v ls, s.env.program = .wr a v :: ls ∧ controllerTurn s = regWrite a v (s.withProgram ls)) ∨
    ((∀ a v ls, s.env.program ≠ .wr a v :: ls) ∧
      ∃ t, controllerTurn s = .next t ∧ t.hpe = s.hpe ∧ t.env.rst = s.env.rst ∧
        t.env.schedule = s.env.schedule ∧ t.env.freeIndex = s.env.freeIndex) := by
  unfold controllerTurn
  split
  · exact .inr ⟨by simp_all, _, rfl, rfl, rfl, rfl, rfl⟩
  · next a v ls e => exact .inl ⟨a, v, ls, e, rfl⟩
  · exact .inr ⟨by simp_all, _, rfl, rfl, rfl, rfl, rfl⟩
  · refine .inr ⟨by simp_all, ?_⟩
    split <;> exact ⟨_, rfl, rfl, rfl, rfl, rfl⟩

end Sys2Proof.Machine
end

