-- ==== Sys2Proof/Laws/Engine.lean ====
section
/-! SUPPORT. Everything an engine step can do, said once: one case per phase, with its guard. -/

namespace Sys2Proof.Machine

/-- The engine's steps as a relation: one constructor per way on from a phase (40_send.md R103 to R109,
41_receive.md R123 to R131). -/
inductive EngineMove (h : Hpe) : Hpe → Prop where
  | a0 : h.phase = .a0WaitAtn → h.inp.atn = true → EngineMove h (h.goTo .r1AssertRfd)
  | r1 : h.phase = .r1AssertRfd → EngineMove h ((h.setRfd true).goTo .r2WaitDav)
  | r2 : h.phase = .r2WaitDav → h.inp.dav = true → EngineMove h (h.goTo .r3DeassertRfd)
  | r3 : h.phase = .r3DeassertRfd → EngineMove h ((h.setRfd false).goTo .r4Sample1)
  | r4 : h.phase = .r4Sample1 → EngineMove h (sampleByte1 h.inp.din h)
  | r5 : h.phase = .r5AssertDac → EngineMove h ((h.setDac true).goTo .r6WaitDavLow)
  | r6one : h.phase = .r6WaitDavLow → h.inp.dav = false → h.w = false → EngineMove h (h.goTo .r8DeassertDac)
  | r6two : h.phase = .r6WaitDavLow → h.inp.dav = false → h.w = true → EngineMove h (h.goTo .r7Sample2)
  | r7 : h.phase = .r7Sample2 → EngineMove h (sampleByte2 h.inp.din h)
  | r8 : h.phase = .r8DeassertDac → EngineMove h (h.setDac false).complete
  | s1 : h.phase = .s1WaitRfd → h.inp.rfd = true → EngineMove h (h.goTo .s2Drive1)
  | s2 : h.phase = .s2Drive1 → EngineMove h ((h.setDout h.txl0).goTo .s3AssertDav)
  | s3 : h.phase = .s3AssertDav → EngineMove h ((h.setDav true).goTo .s4WaitDac)
  | s4one : h.phase = .s4WaitDac → h.inp.dac = true → h.w = false → EngineMove h (h.goTo .s6DeassertDav)
  | s4two : h.phase = .s4WaitDac → h.inp.dac = true → h.w = true → EngineMove h (h.goTo .s5Drive2)
  | s5 : h.phase = .s5Drive2 → EngineMove h ((h.setDout h.txl1).goTo .s6DeassertDav)
  | s6 : h.phase = .s6DeassertDav → EngineMove h ((h.setDav false).goTo .s7WaitDacLow)
  | s7 : h.phase = .s7WaitDacLow → h.inp.dac = false → EngineMove h h.complete

theorem engineStep_cases {h h' : Hpe} (e : engineStep h = some h') : EngineMove h h' := by
  unfold engineStep at e
  split at e <;> rename_i p
  · cases e
  · cases e
  · obtain ⟨c, rfl⟩ := waitUntil_eq_some.1 e
    exact .a0 p c
  · cases e; exact .r1 p
  · obtain ⟨c, rfl⟩ := waitUntil_eq_some.1 e
    exact .r2 p c
  · cases e; exact .r3 p
  · cases e; exact .r4 p
  · cases e; exact .r5 p
  · obtain ⟨c, rfl⟩ := waitUntil_eq_some.1 e
    cases w : h.w with
    | false => exact .r6one p (by simpa using c) w
    | true => exact .r6two p (by simpa using c) w
  · cases e; exact .r7 p
  · cases e; exact .r8 p
  · obtain ⟨c, rfl⟩ := waitUntil_eq_some.1 e
    exact .s1 p c
  · cases e; exact .s2 p
  · cases e; exact .s3 p
  · obtain ⟨c, rfl⟩ := waitUntil_eq_some.1 e
    cases w : h.w with
    | false => exact .s4one p c w
    | true => exact .s4two p c w
  · cases e; exact .s5 p
  · cases e; exact .s6 p
  · obtain ⟨c, rfl⟩ := waitUntil_eq_some.1 e
    exact .s7 p (by simpa using c)

/-- The engine's turn either takes its step or changes nothing (60_exceptions.md R169, R179). -/
theorem engineTurn_cases (h : Hpe) :
    (engineStep h = none ∧ engineTurn h = h) ∨ EngineMove h (engineTurn h) := by
  unfold engineTurn
  cases e : engineStep h with
  | none => exact .inl ⟨rfl, rfl⟩
  | some h' => exact .inr (engineStep_cases e)

/-- An engine step always moves the phase on. -/
theorem EngineMove.phase_ne {h h' : Hpe} (m : EngineMove h h') : h.phase ≠ h'.phase := by
  cases m <;> simp_all [sampleByte1, sampleByte2]

/-- The engine never writes what is not its own (10_state.md R20, R27, 20_memory.md R68). -/
theorem EngineMove.frame {h h' : Hpe} (m : EngineMove h h') :
    h'.inp = h.inp ∧ h'.oe = h.oe ∧ h'.tx0 = h.tx0 ∧ h'.tx1 = h.tx1 ∧ h'.w = h.w ∧ h'.txl0 = h.txl0 ∧
      h'.txl1 = h.txl1 ∧ h'.abt = h.abt ∧ h'.rejc = h.rejc := by
  cases m <;> exact ⟨rfl, rfl, rfl, rfl, rfl, rfl, rfl, rfl, rfl⟩

/-- Every step the relation gives is the engine's. -/
theorem EngineMove.engineStep_eq {h h' : Hpe} (m : EngineMove h h') : engineStep h = some h' := by
  cases m <;>
    simp [engineStep, stepA0, stepR1, stepR2, stepR3, stepR4, stepR5, stepR6, stepR7, stepR8, stepS1, stepS2,
      stepS3, stepS4, stepS5, stepS6, stepS7, waitUntil, *]

/-- A sample that races with a change of DIN: the byte is the free one at R4 and R7, and elsewhere only the port
changes (93_implementation_defined.md section 1). -/
theorem sampleRaceTurn_cases (v free : Byte) (h : Hpe) :
    (h.phase = .r4Sample1 ∧ sampleRaceTurn v free h = (sampleByte1 free h).setPort (.din v)) ∨
    (h.phase = .r7Sample2 ∧ sampleRaceTurn v free h = (sampleByte2 free h).setPort (.din v)) ∨
    (h.phase ≠ .r4Sample1 ∧ h.phase ≠ .r7Sample2 ∧ sampleRaceTurn v free h = h.setPort (.din v)) := by
  unfold sampleRaceTurn
  split <;> simp_all

end Sys2Proof.Machine
end

