-- ==== Sys2Proof/Laws/PerInstr.lean ====
section
/-! SUPPORT. The statement made for each instruction: decoding its CMD byte gives it back. -/

namespace Sys2Proof.Laws.RoundTrip

/-- The CMD byte of the operation has well-formed fields and decodes to the operation. -/
def Statement (i : Instr) : Prop :=
  i.wellFormed = true → (Cmd8.ofByte (encode i)).wellFormed = true ∧ decode (encode i) = .ok i

theorem nop : Statement .nop := fun _ => ⟨rfl, rfl⟩
theorem send1 : Statement .send1 := fun _ => ⟨rfl, rfl⟩
theorem recv1 : Statement .recv1 := fun _ => ⟨rfl, rfl⟩
theorem awaitcmd : Statement .awaitcmd := fun _ => ⟨rfl, rfl⟩
theorem enable : Statement .enable := fun _ => ⟨rfl, rfl⟩
theorem release : Statement .release := fun _ => ⟨rfl, rfl⟩
theorem send2 : Statement .send2 := fun _ => ⟨rfl, rfl⟩
theorem recv2 : Statement .recv2 := fun _ => ⟨rfl, rfl⟩

end Sys2Proof.Laws.RoundTrip
end

