-- ==== Sys2Proof/Laws/Step.lean ====
section
/-! SUPPORT. Everything a step can do, said once, and the induction over runs. -/

namespace Sys2Proof.Machine

/-- A step is the turn of the next agent, from the state after the tick. -/
theorem step_eq (s : State) : step s = turnOf s.nextTurn s.tick.holdReset := rfl

/-- With `rst` released, the turn starts from the HPE as it stands. -/
theorem State.holdReset_tick (s : State) (r : s.env.rst = false) : s.tick.holdReset = s.tick :=
  State.holdReset_of_released _ r

/-- The five kinds of a step. `s.tick.holdReset` is the state the turn starts from: the same HPE, or its reset
values while `rst` is asserted. -/
theorem step_cases {s t : State} (e : step s = .next t) :
    (s.nextTurn = .engine ∧ t = s.tick.holdReset.withHpe (engineTurn s.tick.holdReset.hpe)) ∨
    (∃ c, s.nextTurn = .host c ∧ t = s.tick.holdReset.withHpe (s.tick.holdReset.hpe.setPort c)) ∨
    (s.nextTurn = .controller ∧ controllerTurn s.tick.holdReset = .next t) ∨
    (∃ b, s.nextTurn = .rst b ∧ t = s.tick.holdReset.driveRst b) ∨
    (∃ v, s.nextTurn = .sampleRace v ∧ t = s.tick.holdReset.withHpe
      (sampleRaceTurn v (Config.tornSample (s.env.freeIndex + 1)) s.tick.holdReset.hpe)) := by
  rw [step_eq] at e
  unfold turnOf at e
  split at e <;> rename_i n
  · cases e; exact .inl ⟨n, rfl⟩
  · cases e; exact .inr (.inl ⟨_, n, rfl⟩)
  · exact .inr (.inr (.inl ⟨n, e⟩))
  · cases e; exact .inr (.inr (.inr (.inl ⟨_, n, rfl⟩)))
  · cases e
    refine .inr (.inr (.inr (.inr ⟨_, n, ?_⟩)))
    rw [State.holdReset_env, State.tick_freeIndex]

/-! The step for each turn, with `rst` released. -/

theorem step_of_engine {s : State} (r : s.env.rst = false) (n : s.nextTurn = .engine) :
    step s = .next (s.tick.withHpe (engineTurn s.hpe)) := by
  rw [step_eq, n, State.holdReset_tick s r]; rfl

theorem step_of_host {s : State} {c : PortChange} (r : s.env.rst = false) (n : s.nextTurn = .host c) :
    step s = .next (s.tick.withHpe (s.hpe.setPort c)) := by
  rw [step_eq, n, State.holdReset_tick s r]; rfl

theorem step_of_controller {s : State} (r : s.env.rst = false) (n : s.nextTurn = .controller) :
    step s = controllerTurn s.tick := by
  rw [step_eq, n, State.holdReset_tick s r]; rfl

/-- One step of a run, for any machine behind the host's interface. -/
theorem run_of_core_step (M : Host.Core) {s t : M.State} (e : M.step s = .next t) (k : Nat) :
    M.run (k + 1) s = M.run k t := by
  rw [Host.Core.run, e]

/-- One step of a run of this machine. -/
theorem run_of_step {s t : State} (e : step s = .next t) (k : Nat) :
    Host.Core.run Sys2Proof.core (k + 1) s = Host.Core.run Sys2Proof.core k t :=
  run_of_core_step Sys2Proof.core e k

/-- Every controller turn answers, and touches neither `rst`, nor the schedule, nor the free index. -/
theorem controllerTurn_answers (s : State) :
    ∃ t, controllerTurn s = .next t ∧ t.env.rst = s.env.rst ∧ t.env.schedule = s.env.schedule ∧
      t.env.freeIndex = s.env.freeIndex := by
  rcases controllerTurn_cases s with ⟨a, v, ls, -, e⟩ | ⟨-, t, e, -, r, sc, fi⟩
  · obtain ⟨h, e'⟩ := regWrite_answers a v (s.withProgram ls)
    exact ⟨_, e.trans e', rfl, rfl, rfl⟩
  · exact ⟨t, e, r, sc, fi⟩

/-- A controller turn takes the program's next line or stays at it. -/
theorem controllerTurn_program {s t : State} (e : controllerTurn s = .next t) :
    t.env.program = s.env.program ∨ t.env.program = s.env.program.tail := by
  unfold controllerTurn at e
  split at e <;> rename_i p
  · cases e; exact .inl rfl
  · obtain ⟨h, e'⟩ := regWrite_answers _ _ (s.withProgram _)
    rw [e'] at e; cases e; exact .inr (by rw [p]; rfl)
  · cases e; exact .inr (by rw [p]; rfl)
  · split at e <;> cases e
    · exact .inr (by rw [p]; rfl)
    · exact .inl rfl

/-- What a step can make of the HPE while `rst` is released: one constructor per way, each with its cause. -/
inductive HpeMove (s : State) : Hpe → Prop where
  | stay : HpeMove s s.hpe
  | engine {h : Hpe} : s.nextTurn = .engine → EngineMove s.hpe h → HpeMove s h
  | port {c : PortChange} : s.nextTurn = .host c → HpeMove s (s.hpe.setPort c)
  | tx0 {v : Byte} {ls : List ProgLine} : s.nextTurn = .controller → s.env.program = .wr 0x2 v :: ls →
      HpeMove s { s.hpe with tx0 := v }
  | tx1 {v : Byte} {ls : List ProgLine} : s.nextTurn = .controller → s.env.program = .wr 0x3 v :: ls →
      HpeMove s { s.hpe with tx1 := v }
  | reject {c : Rejection} {v : Byte} {ls : List ProgLine} : s.nextTurn = .controller →
      s.env.program = .wr 0x0 v :: ls → (c = .released → s.hpe.phase = .released) → HpeMove s (s.hpe.reject c)
  | release {ls : List ProgLine} : s.nextTurn = .controller → s.env.program = .wr 0x0 0x07 :: ls →
      HpeMove s s.hpe.release
  | enable {ls : List ProgLine} : s.nextTurn = .controller → s.env.program = .wr 0x0 0x06 :: ls →
      s.hpe.busy = false → HpeMove s ((s.hpe.clearStatus.idleLatches.setOe true).goTo .idle)
  | send1 {ls : List ProgLine} : s.nextTurn = .controller → s.env.program = .wr 0x0 0x01 :: ls →
      s.hpe.phase = .idle → HpeMove s (Hpe.acceptSend false s.hpe.clearStatus)
  | send2 {ls : List ProgLine} : s.nextTurn = .controller → s.env.program = .wr 0x0 0x09 :: ls →
      s.hpe.phase = .idle → HpeMove s (Hpe.acceptSend true s.hpe.clearStatus)
  | recv1 {ls : List ProgLine} : s.nextTurn = .controller → s.env.program = .wr 0x0 0x02 :: ls →
      s.hpe.phase = .idle → HpeMove s (Hpe.acceptRecv false s.hpe.clearStatus)
  | recv2 {ls : List ProgLine} : s.nextTurn = .controller → s.env.program = .wr 0x0 0x0A :: ls →
      s.hpe.phase = .idle → HpeMove s (Hpe.acceptRecv true s.hpe.clearStatus)
  | awaitcmd {ls : List ProgLine} : s.nextTurn = .controller → s.env.program = .wr 0x0 0x03 :: ls →
      s.hpe.phase = .idle → HpeMove s (Hpe.acceptAwait s.hpe.clearStatus)
  | reset : s.nextTurn = .rst true → HpeMove s s.hpe.resetStored
  | race1 {v : Byte} : s.nextTurn = .sampleRace v → s.hpe.phase = .r4Sample1 →
      HpeMove s ((sampleByte1 (Config.tornSample (s.env.freeIndex + 1)) s.hpe).setPort (.din v))
  | race2 {v : Byte} : s.nextTurn = .sampleRace v → s.hpe.phase = .r7Sample2 →
      HpeMove s ((sampleByte2 (Config.tornSample (s.env.freeIndex + 1)) s.hpe).setPort (.din v))
  | race0 {v : Byte} : s.nextTurn = .sampleRace v → s.hpe.phase ≠ .r4Sample1 → s.hpe.phase ≠ .r7Sample2 →
      HpeMove s (s.hpe.setPort (.din v))

/-- A CMD write of a legal byte, as a step: the operation's own way or a rejection. `v` is the surrounding in which
the operation runs. -/
theorem HpeMove.of_exec {s t : State} {v : Env} {i : Instr} {ls : List ProgLine} (n : s.nextTurn = .controller)
    (p : s.env.program = .wr 0x0 (encode i) :: ls) (e : exec i { hpe := s.hpe, env := v } = .next t) :
    HpeMove s t.hpe := by
  have transfer : ∀ f, startTransfer f { hpe := s.hpe, env := v } = .next t →
      HpeMove s t.hpe ∨ (s.hpe.phase = .idle ∧ t.hpe = f s.hpe.clearStatus) := by
    intro f e
    rcases startTransfer_cases f { hpe := s.hpe, env := v } with ⟨h, z⟩ | ⟨-, z⟩ | ⟨h, z⟩ <;> rw [z] at e <;> cases e
    · exact .inl (.reject n p fun _ => h)
    · exact .inl (.reject n p fun h => by cases h)
    · exact .inr ⟨h, rfl⟩
  cases i with
  | nop => cases e; exact .stay
  | release => cases e; exact .release n p
  | enable =>
    rcases execEnable_cases { hpe := s.hpe, env := v } with ⟨-, z⟩ | ⟨h, z⟩ <;> rw [exec, z] at e <;> cases e
    · exact .reject n p fun h => by cases h
    · exact .enable n p h
  | send1 => rcases transfer _ e with h | ⟨h, g⟩; exacts [h, g ▸ .send1 n p h]
  | send2 => rcases transfer _ e with h | ⟨h, g⟩; exacts [h, g ▸ .send2 n p h]
  | recv1 => rcases transfer _ e with h | ⟨h, g⟩; exacts [h, g ▸ .recv1 n p h]
  | recv2 => rcases transfer _ e with h | ⟨h, g⟩; exacts [h, g ▸ .recv2 n p h]
  | awaitcmd => rcases transfer _ e with h | ⟨h, g⟩; exacts [h, g ▸ .awaitcmd n p h]

/-- The inversion of a step while `rst` is released: every whole-machine rule about the HPE is a case analysis of
this. -/
theorem step_hpe {s t : State} (r : s.env.rst = false) (e : step s = .next t) : HpeMove s t.hpe := by
  have hr := State.holdReset_tick s r
  rcases step_cases e with ⟨n, rfl⟩ | ⟨c, n, rfl⟩ | ⟨n, e⟩ | ⟨b, n, rfl⟩ | ⟨v, n, rfl⟩ <;> rw [hr] at *
  · rcases engineTurn_cases s.hpe with ⟨-, z⟩ | z
    · change HpeMove s (engineTurn s.hpe)
      rw [z]; exact .stay
    · exact .engine n z
  · exact .port n
  · rcases controllerTurn_cases s.tick with ⟨a, v, ls, p, e'⟩ | ⟨-, t', e', h, -⟩ <;> rw [e'] at e
    · rcases regWrite_cases a v (s.tick.withProgram ls) r with ⟨rfl, k⟩ | ⟨rfl, k⟩ | ⟨rfl, k⟩ | ⟨-, -, -, k⟩ <;>
        rw [k] at e
      · rcases cmdWrite_cases v (s.tick.withProgram ls) with ⟨i, d, k⟩ | ⟨-, -, k⟩ <;> rw [k] at e
        · obtain rfl := eq_encode_of_decode d
          exact .of_exec (v := (s.tick.withProgram ls).env) n p e
        · cases e; exact .reject n p fun h => by cases h
      · cases e; exact .tx0 n p
      · cases e; exact .tx1 n p
      · cases e; exact .stay
    · cases e; exact h ▸ .stay
  · cases b
    · exact .stay
    · exact .reset n
  · change HpeMove s (sampleRaceTurn v _ s.hpe)
    rcases sampleRaceTurn_cases v (Config.tornSample (s.env.freeIndex + 1)) s.hpe with ⟨p, k⟩ | ⟨p, k⟩ | ⟨p, q, k⟩ <;>
      rw [k]
    · exact .race1 n p
    · exact .race2 n p
    · exact .race0 n p q

/-! The events of a step. -/

theorem stepEvents_of_phase_eq {s t : State} (p : s.hpe.phase = t.hpe.phase) : stepEvents s t = [] := by
  unfold stepEvents engineMoved
  split <;> simp [p]

theorem stepEvents_of_controller {s t : State} (n : s.nextTurn = .controller) : stepEvents s t = [] := by
  simp [stepEvents, engineMoved, n]

theorem stepEvents_of_engine {s t : State} (r : s.env.rst = false) (n : s.nextTurn = .engine)
    (p : s.hpe.phase ≠ t.hpe.phase) : stepEvents s t = engineEvents s.hpe t.hpe := by
  simp [stepEvents, engineMoved, n, r, p]

theorem stepEvents_of_race {s t : State} {v : Byte} (r : s.env.rst = false) (n : s.nextTurn = .sampleRace v)
    (p : s.hpe.phase ≠ t.hpe.phase) : stepEvents s t = engineEvents s.hpe t.hpe := by
  simp [stepEvents, engineMoved, n, r, p]

/-- The induction over runs: what holds at the start and is kept by every step holds all along. -/
theorem Reachable.induct {s t : State} {P : State → Prop} (r : Reachable s t) (start : P s)
    (keep : ∀ u v, P u → step u = .next v → P v) : P t := by
  induction r with
  | refl => exact start
  | snoc _ e ih => exact keep _ _ ih e

end Sys2Proof.Machine
end

