-- ==== Sys2Proof/Tests/Slice0.lean ====
section
/-! SUPPORT. The model's own tests. Every expected value is written from spec/: the encoding tables of
30_encoding.md and the vectors of 95_test_vectors.md, named in each docstring. After them, for each statement with
hypotheses, a concrete state that meets them. -/

namespace Sys2Proof.Tests
open Sys2Proof.Machine

/-! ### Small states -/

/-- The state a result answers. -/
def after : Result → Option State
  | .next t => some t
  | .fault _ => none
  | .refused _ => none

/-- A register read from the state a result answers. -/
def readAfter (a : RegAddr) (r : Result) : Option Byte := (after r).map fun t => regRead a t.hpe

/-- The registers STATUS, LINES_OUT and PHASE after a result, in this order. -/
def shows (r : Result) : List (Option Byte) :=
  [readAfter Reg.status r, readAfter Reg.linesOut r, readAfter Reg.phase r]

/-- A machine with these turns and program lines to come. -/
def machine (h : Hpe) (ts : List Turn) (ls : List ProgLine) : State :=
  { hpe := h, env := { rst := false, schedule := ts, program := ls, names := [], freeIndex := 0 } }

/-- The start state E0 of 95_test_vectors.md. -/
def e0 : Hpe := { Hpe.reset with oe := true, phase := .idle }

/-- A SEND of 0x5A and 0x34 in a phase, with the latches that belong to it. -/
def sending (p : Phase) (w : Bool) : Hpe :=
  { e0 with txl0 := 0x5A, txl1 := 0x34, w := w, phase := p, out := { e0.out with dav := p.latches.1 } }

/-- A receive in a phase, with the latches that belong to it. -/
def receiving (p : Phase) (w : Bool) : Hpe :=
  { e0 with w := w, phase := p, out := { e0.out with rfd := p.latches.2.1, dac := p.latches.2.2 } }

/-- The HPE with other inbound ports. -/
def withPorts (h : Hpe) (din : Byte) (dav rfd dac atn : Bool) : Hpe :=
  { h with inp := { h.inp with din := din, dav := dav, rfd := rfd, dac := dac, atn := atn } }

/-! ### WellFormed: an ill-formed term for each check -/

theorem test_rsv_check_refuses : Cmd8.rsvZero { rsv := 0b0001, w := false, op := 0b001 } = false := by decide
theorem test_op_check_refuses :
    Cmd8.opAssigned { rsv := 0b0000, w := false, op := 0b100 } = false ∧
    Cmd8.opAssigned { rsv := 0b0000, w := false, op := 0b101 } = false := by decide
theorem test_width_check_refuses : Cmd8.widthAllowed { rsv := 0b0000, w := true, op := 0b011 } = false := by decide
theorem test_each_check_makes_a_term_ill_formed :
    Cmd8.wellFormed { rsv := 0b1000, w := false, op := 0b010 } = false ∧
    Cmd8.wellFormed { rsv := 0b0000, w := false, op := 0b101 } = false ∧
    Cmd8.wellFormed { rsv := 0b0000, w := true, op := 0b110 } = false ∧
    Cmd8.wellFormed { rsv := 0b0000, w := true, op := 0b010 } = true := by decide

/-! ### Decoding: each row of 30_encoding.md R82, bit 7 first -/

theorem test_decode_nop : decode 0b00000000#8 = .ok .nop := by rfl
theorem test_decode_send1 : decode 0b00000001#8 = .ok .send1 := by rfl
theorem test_decode_send2 : decode 0b00001001#8 = .ok .send2 := by rfl
theorem test_decode_recv1 : decode 0b00000010#8 = .ok .recv1 := by rfl
theorem test_decode_recv2 : decode 0b00001010#8 = .ok .recv2 := by rfl
theorem test_decode_awaitcmd : decode 0b00000011#8 = .ok .awaitcmd := by rfl
theorem test_decode_enable : decode 0b00000110#8 = .ok .enable := by rfl
theorem test_decode_release : decode 0b00000111#8 = .ok .release := by rfl

/-- The three groups of illegal bytes of 30_encoding.md R83, at the ends of each. -/
theorem test_decode_illegal :
    decode 0b00010000#8 = .error .reservedField ∧ decode 0b11111111#8 = .error .reservedField ∧
    decode 0b00000100#8 = .error .reservedOp ∧ decode 0b00001101#8 = .error .reservedOp ∧
    decode 0b00001000#8 = .error .widthNotAllowed ∧ decode 0b00001111#8 = .error .widthNotAllowed :=
  ⟨rfl, rfl, rfl, rfl, rfl, rfl⟩

/-! ### The operations, by the vectors of 95_test_vectors.md -/

/-- V-N1: a NOP during a SEND1 held in S1. -/
theorem test_nop_in_a_transfer :
    shows (cmdWrite 0x00 (machine (sending .s1WaitRfd false) [] [])) = [some 0x09, some 0x08, some 0x10] := by decide

/-- V-N2: NOP does not clear REJC. -/
theorem test_nop_keeps_rejc :
    readAfter Reg.status (cmdWrite 0x00 (machine { e0 with rejc := .illegal } [] [])) = some 0x18 := by decide

/-- V-S1 step 2. -/
theorem test_send1_accepted :
    shows (cmdWrite 0x01 (machine { e0 with tx0 := 0x5A } [] [])) = [some 0x09, some 0x08, some 0x10] := by decide

/-- V-S2 step 3, and V-S5: the byte is latched at accept. -/
theorem test_send2_accepted :
    shows (cmdWrite 0x09 (machine { e0 with tx0 := 0x12, tx1 := 0x34 } [] [])) =
      [some 0x09, some 0x08, some 0x30] ∧
    (after (cmdWrite 0x09 (machine { e0 with tx0 := 0x12, tx1 := 0x34 } [] []))).map (fun t => (t.hpe.txl0, t.hpe.txl1)) =
      some (0x12, 0x34) := by decide

/-- V-R1 step 1, and V-X9: an accept clears DONE and REJC (STATUS 0x2A before). -/
theorem test_recv1_accepted :
    shows (cmdWrite 0x02 (machine { e0 with done := true, rejc := .busy } [] [])) =
      [some 0x09, some 0x08, some 0x08] := by decide

/-- V-R2 step 1. -/
theorem test_recv2_accepted :
    shows (cmdWrite 0x0A (machine e0 [] [])) = [some 0x09, some 0x08, some 0x28] := by decide

/-- V-A1 step 1. -/
theorem test_awaitcmd_accepted :
    shows (cmdWrite 0x03 (machine { e0 with w := true } [] [])) = [some 0x09, some 0x08, some 0x02] := by decide

/-- V-E1, and the start state E0. -/
theorem test_enable_after_reset :
    shows (cmdWrite 0x06 State.reset) = [some 0x08, some 0x08, some 0x01] ∧
    (after (cmdWrite 0x06 State.reset)).map State.hpe = some e0 := by decide

/-- V-E3: ENABLE during a transfer. -/
theorem test_enable_busy :
    shows (cmdWrite 0x06 (machine (sending .s1WaitRfd false) [] [])) = [some 0x29, some 0x08, some 0x10] := by decide

/-- V-L1: RELEASE of a SEND1 held in S4, with 0x5A on DOUT. -/
theorem test_release_in_a_send :
    shows (cmdWrite 0x07 (machine ((sending .s4WaitDac false).setDout 0x5A) [] [])) =
      [some 0x04, some 0x00, some 0x00] ∧
    readAfter Reg.dout (cmdWrite 0x07 (machine ((sending .s4WaitDac false).setDout 0x5A) [] [])) = some 0x5A := by
  decide

/-- V-L4: RELEASE of a RECV2 held in R6 keeps W and RX0. -/
theorem test_release_in_a_receive :
    shows (cmdWrite 0x07 (machine { receiving .r6WaitDavLow true with rx0 := 0x12 } [] [])) =
      [some 0x04, some 0x00, some 0x20] ∧
    readAfter Reg.rx0 (cmdWrite 0x07 (machine { receiving .r6WaitDavLow true with rx0 := 0x12 } [] [])) =
      some 0x12 := by decide

/-! ### Rejections -/

/-- V-X1 to V-X3, one byte of each group. -/
theorem test_illegal_in_idle :
    [0x04#8, 0x0F#8, 0x80#8].map (fun v => readAfter Reg.status (cmdWrite v (machine e0 [] []))) =
      [some 0x18, some 0x18, some 0x18] := by decide

/-- V-X4 and V-X5: RELEASED, and ILLEGAL before it. -/
theorem test_rejections_after_reset :
    [0x01#8, 0x09#8, 0x02#8, 0x0A#8, 0x03#8, 0xFF#8].map (fun v => readAfter Reg.status (cmdWrite v State.reset)) =
      [some 0x30, some 0x30, some 0x30, some 0x30, some 0x30, some 0x10] := by decide

/-- V-X6 and V-X7: BUSY, and ILLEGAL before it. -/
theorem test_rejections_in_a_transfer :
    [0x01#8, 0x09#8, 0x02#8, 0x0A#8, 0x03#8, 0x06#8, 0x04#8].map
      (fun v => readAfter Reg.status (cmdWrite v (machine (sending .s1WaitRfd false) [] []))) =
      [some 0x29, some 0x29, some 0x29, some 0x29, some 0x29, some 0x29, some 0x19] := by decide

/-! ### The engine's steps -/

/-- V-S2 steps 6 and 10: byte 1 and byte 2 on DOUT. -/
theorem test_send_drives_both_bytes :
    readAfter Reg.dout (step (machine (sending .s2Drive1 true) [] [])) = some 0x5A ∧
    readAfter Reg.dout (step (machine (sending .s5Drive2 true) [] [])) = some 0x34 := by decide

/-- V-S1 step 8 against V-S2 step 9: S4 goes on to S6 or S5 by W. -/
theorem test_s4_goes_by_w :
    readAfter Reg.phase (step (machine (withPorts (sending .s4WaitDac false) 0 false false true false) [] [])) =
      some 0x15 ∧
    readAfter Reg.phase (step (machine (withPorts (sending .s4WaitDac true) 0 false false true false) [] [])) =
      some 0x34 := by decide

/-- V-S1 step 11, and V-X8: completion does not clear REJC. -/
theorem test_s7_completes :
    shows (step (machine (sending .s7WaitDacLow false) [] [])) = [some 0x0A, some 0x08, some 0x01] ∧
    readAfter Reg.status (step (machine { sending .s7WaitDacLow false with rejc := .busy } [] [])) = some 0x2A := by
  decide

/-- V-S3 step 6: held in S7 while DAC is high. -/
theorem test_s7_holds :
    shows (step (machine (withPorts (sending .s7WaitDacLow false) 0 false false true false) [] [])) =
      [some 0x09, some 0x08, some 0x16] := by decide

/-- V-R2 steps 7 and 12: byte 1 to RX0, byte 2 to RX1. -/
theorem test_receive_samples_both_bytes :
    readAfter Reg.rx0 (step (machine (withPorts (receiving .r4Sample1 true) 0x12 true false false false) [] [])) =
      some 0x12 ∧
    readAfter Reg.rx1 (step (machine (withPorts (receiving .r7Sample2 true) 0x34 false false false false) [] [])) =
      some 0x34 := by decide

/-- V-R1 steps 2, 8 and 11: LINES_OUT at RFD, at DAC and at the end. -/
theorem test_receive_lines :
    readAfter Reg.linesOut (step (machine (receiving .r1AssertRfd false) [] [])) = some 0x0A ∧
    readAfter Reg.linesOut (step (machine (receiving .r5AssertDac false) [] [])) = some 0x0C ∧
    shows (step (machine (receiving .r8DeassertDac false) [] [])) = [some 0x0A, some 0x08, some 0x01] := by decide

/-- V-A1 step 3: A0 passes on ATN. -/
theorem test_a0_passes :
    readAfter Reg.phase (step (machine (withPorts (receiving .a0WaitAtn false) 0 false false false true) [] [])) =
      some 0x08 := by decide

/-! ### Registers, ports and reset -/

/-- V-LIN1 and V-LIN3. -/
theorem test_lines_in :
    regRead Reg.linesIn { e0 with inp :=
      { din := 0, dsize := 0b10, dav := true, rfd := false, dac := true, atn := true, rst := false } } = 0x4D ∧
    regRead Reg.linesIn { e0 with inp := { Hpe.reset.inp with dsize := 0b11 } } = 0x60 := by decide

/-- V-LIN4: a host step shows in DIN and not in RX0. -/
theorem test_din_is_live :
    readAfter Reg.din (step (machine e0 [.host (.din 0xC3)] [])) = some 0xC3 ∧
    readAfter Reg.rx0 (step (machine e0 [.host (.din 0xC3)] [])) = some 0x00 := by decide

/-- V-RES2: writes to read-only and reserved addresses change nothing. -/
theorem test_ignored_writes :
    [(0x1#4, 0xFF#8), (0x4#4, 0x55#8), (0xC#4, 0x12#8)].map
      (fun p => (after (regWrite p.1 p.2 (machine e0 [] []))).map State.hpe) = [some e0, some e0, some e0] := by decide

/-- V-RST: every register after reset, in address order. -/
theorem test_reset_registers :
    (List.range 16).map (fun a => regRead (BitVec.ofNat 4 a) State.reset.hpe) = List.replicate 16 0x00#8 := by decide

/-- V-RACE2: reset in the middle of a transfer; ABT is not set (70_reset_and_hazards.md R190). -/
theorem test_reset_drops_a_transfer :
    shows (step (machine (sending .s4WaitDac true) [.rst true] [])) = [some 0x00, some 0x00, some 0x00] := by decide

/-- An operation of the table, placed for the very next step, is run (V-E1). -/
theorem test_fetch_word_runs :
    shows (step (State.reset.withFetchWord 8 0x06)) = [some 0x08, some 0x08, some 0x01] := by decide

/-! ### Pins and the controller's syntax -/

/-- V-L1: after RELEASE no pin is driven; before it DAV is. -/
theorem test_pins :
    (sending .s4WaitDac false).pins.dav = some true ∧
    (sending .s4WaitDac false).release.pins = { dout := none, dav := none, rfd := none, dac := none } := by decide

/-- Program P3a of 95_test_vectors.md, as its bus writes and polls. -/
theorem test_fast_stream :
    asmPutFast [0xA0, 0xA1, 0xA2, 0xA3] =
      [.wr 0x2 0xA0, .wr 0x3 0xA1, .wr 0x0 0x09, .poll 0x1 0x03 0x02,
       .wr 0x2 0xA2, .wr 0x3 0xA3, .wr 0x0 0x09, .poll 0x1 0x03 0x02] := by decide

/-- 20_memory.md R71: most significant byte first, one byte a transfer. -/
theorem test_word_is_most_significant_byte_first :
    asmPutWord 0x1234 =
      [.wr 0x2 0x12, .wr 0x0 0x01, .poll 0x1 0x03 0x02, .wr 0x2 0x34, .wr 0x0 0x01, .poll 0x1 0x03 0x02] := by decide

/-- 60_exceptions.md R174: the end is the first state, before the host's later change of DIN; RELEASE ends with no
pin driven. -/
theorem test_run_ends_at_the_first_state :
    (runResult 2 (machine e0 [.controller, .host (.din 0x77)] [.wr 0x2 0x5A])).map
      (fun r => (r.registers.take 8, r.pins.dav)) = some ([0x00, 0x08, 0x5A, 0x00, 0x00, 0x00, 0x00, 0x00], some false) ∧
    (runResult 1 (machine e0 [.controller] [.wr 0x0 0x07])).map (fun r => r.pins.dav) = some none := by decide

/-! ### Witnesses: for each statement with hypotheses, states that meet them -/

/-- Both ends of each group of R83. -/
theorem witness_IllegalBytesAreRejected :
    0x10 ≤ (0x10#8).toNat ∧ 0x10 ≤ (0xFF#8).toNat ∧ 0x04#8 ∈ [0x04#8, 0x05#8, 0x0C#8, 0x0D#8] ∧
    0x0F#8 ∈ [0x08#8, 0x0B#8, 0x0E#8, 0x0F#8] := by decide

/-- The next line writes SEND2. -/
def fetchState (v : Byte) : State := machine e0 [.controller, .engine] [.wr 0x0 v, .rd 0x1 7]

theorem witness_StepRunsTheDecodedInstruction :
    (fetchState 0x09).env.rst = false ∧ (fetchState 0x09).env.schedule = .controller :: [.engine] ∧
    (fetchState 0x09).env.program = .wr 0x0 0x09 :: [.rd 0x1 7] ∧ decode 0x09 = .ok .send2 ∧
    Instr.wellFormed .send2 = true := ⟨rfl, rfl, rfl, rfl, rfl⟩

theorem witness_StepRejectsAnIllegalByte :
    (fetchState 0x0C).env.rst = false ∧ (fetchState 0x0C).env.schedule = .controller :: [.engine] ∧
    (fetchState 0x0C).env.program = .wr 0x0 0x0C :: [.rd 0x1 7] ∧ decode 0x0C = .error .reservedOp :=
  ⟨rfl, rfl, rfl, rfl⟩

theorem witness_FetchWordRunsNext :
    decodeTableWord 8 0x0A = some .recv2 ∧ decodeTableWord 8 0x07 = some .release := by decide

/-- A send in S2 has a step; a send held in S1 has none. -/
theorem witness_AnUnscheduledStepIsTheEngines :
    (machine (sending .s2Drive1 true) [] []).env.rst = false ∧ (machine (sending .s2Drive1 true) [] []).env.schedule = [] ∧
    engineStep (sending .s2Drive1 true) = some ((sending .s3AssertDav true).setDout 0x5A) ∧
    engineStep (sending .s1WaitRfd true) = none := by decide

theorem witness_SendIsAcceptedInIdle : (machine { e0 with tx0 := 0x5A } [] []).hpe.phase = .idle := by decide

theorem witness_ReceiveIsAcceptedInIdle : (machine { e0 with rx1 := 0x34 } [] []).hpe.phase = .idle := by decide

/-- In a transfer, in RELEASED and in IDLE. -/
theorem witness_EnableDrivesIdleLevels :
    ((machine (sending .s4WaitDac true) [] []).hpe.phase ≠ .released ∧
     (machine (sending .s4WaitDac true) [] []).hpe.phase ≠ .idle) ∧
    State.reset.hpe.phase = .released ∧ (machine e0 [] []).hpe.phase = .idle := by decide

/-- Each clause: a released HPE, an illegal byte, a transfer byte in RELEASED, in a transfer and in IDLE, ENABLE out
of a transfer, and a rejection. -/
theorem witness_CmdWriteRecordsOneRejection :
    Hpe.reset.phase = .released ∧
    0xFF#8 ∉ [0x00#8, 0x01#8, 0x09#8, 0x02#8, 0x0A#8, 0x03#8, 0x06#8, 0x07#8] ∧
    (0x03#8 ∈ [0x01#8, 0x09#8, 0x02#8, 0x0A#8, 0x03#8] ∧ State.reset.hpe.phase = .released) ∧
    (0x06#8 ∈ [0x01#8, 0x09#8, 0x02#8, 0x0A#8, 0x03#8, 0x06#8] ∧ (sending .s1WaitRfd false).busy = true) ∧
    (0x01#8 ∈ [0x01#8, 0x09#8, 0x02#8, 0x0A#8, 0x03#8] ∧ e0.phase = .idle) ∧ e0.busy = false ∧
    (0x10#8 ≠ 0x00#8 ∧ (after (cmdWrite 0x10 (machine e0 [] []))).map (fun t => t.hpe.rejc) = some .illegal) := by
  decide

/-- SEND1 in IDLE and in RELEASED; a send phase other than S4; S4 with DAC. -/
theorem witness_SendWidthsDifferInTwoWays :
    (exec .send1 (machine e0 [] []) = .next (machine (e0.acceptSend false) [] []) ∧ e0.phase = .idle) ∧
    (exec .send1 State.reset = .next (State.reset.reject .released) ∧ State.reset.hpe.phase ≠ .idle) ∧
    ((sending .s6DeassertDav true).phase.isSend = true ∧ (sending .s6DeassertDav true).phase ≠ .s4WaitDac) ∧
    ((withPorts (sending .s4WaitDac true) 0 false false true false).phase = .s4WaitDac ∧
     (withPorts (sending .s4WaitDac true) 0 false false true false).inp.dac = true) :=
  ⟨⟨rfl, rfl⟩, ⟨rfl, by decide⟩, by decide, by decide⟩

/-- One state for each send phase. -/
theorem witness_SendPhasesStepAsRuled :
    ∀ p ∈ [Phase.s1WaitRfd, .s2Drive1, .s3AssertDav, .s4WaitDac, .s5Drive2, .s6DeassertDav, .s7WaitDacLow],
      (machine (sending p true) [] []).env.rst = false ∧ (machine (sending p true) [] []).nextTurn = .engine ∧
      (machine (sending p true) [] []).hpe.phase = p := by decide

/-- One state for A0 and for each receive phase. -/
theorem witness_ReceivePhasesStepAsRuled :
    ∀ p ∈ [Phase.a0WaitAtn, .r1AssertRfd, .r2WaitDav, .r3DeassertRfd, .r4Sample1, .r5AssertDac, .r6WaitDavLow,
        .r7Sample2, .r8DeassertDac],
      (machine (receiving p true) [.engine] []).env.rst = false ∧
      (machine (receiving p true) [.engine] []).nextTurn = .engine ∧
      (machine (receiving p true) [.engine] []).hpe.phase = p := by decide

/-- Two HPEs that differ in DOUT and TX0 and both step. -/
theorem witness_EngineStepsExactlyWhenRuled :
    let h := sending .s2Drive1 true
    let g := { (sending .s2Drive1 true).setDout 0xEE with tx0 := 0x11 }
    h.phase = g.phase ∧ h.w = g.w ∧ h.txl0 = g.txl0 ∧ h.txl1 = g.txl1 ∧ h.inp = g.inp ∧
    (engineStep h).isSome = true ∧ (engineStep g).isSome = true := by decide

theorem witness_EngineStepFrame : engineStep (receiving .r5AssertDac true) = some (receiving .r6WaitDavLow true) := by
  decide

/-- An engine step, and an operation that is neither ENABLE nor RELEASE. -/
theorem witness_EngineStepWritesAtMostOneOutputField :
    engineStep (sending .s3AssertDav true) = some (sending .s4WaitDac true) ∧
    exec .nop (machine e0 [] []) = .next (machine e0 [] []) ∧ Instr.nop ≠ .enable ∧ Instr.nop ≠ .release :=
  ⟨by decide, rfl, by decide, by decide⟩

/-- A data step of each kind, and a handshake step. -/
theorem witness_DataAndHandshakeStepsAreApart :
    (∀ h ∈ [receiving .r4Sample1 true, receiving .r7Sample2 true, sending .s2Drive1 true, sending .s5Drive2 true],
      (engineStep h).isSome = true ∧ h.phase ∈ [.r4Sample1, .r7Sample2, .s2Drive1, .s5Drive2]) ∧
    (engineStep (sending .s6DeassertDav true)).isSome = true ∧
    (sending .s6DeassertDav true).phase ∉ [.r4Sample1, .r7Sample2, .s2Drive1, .s5Drive2] := by decide

/-- S2 meets the hypotheses of every clause. -/
theorem witness_SendReadsOnlyRfdAndDac :
    (sending .s2Drive1 true).phase.isSend = true ∧ (sending .s2Drive1 true).phase ≠ .s1WaitRfd ∧
    (sending .s2Drive1 true).phase ≠ .s4WaitDac ∧ (sending .s2Drive1 true).phase ≠ .s7WaitDacLow ∧
    (engineStep (sending .s2Drive1 true)).isSome = true := by decide

/-- R1 meets the hypotheses of every receive clause; A0 with other ports those of the last. -/
theorem witness_ReceiveReadsOnlyDavAndDin :
    ((receiving .r1AssertRfd true).phase.isReceive = true ∧ (receiving .r1AssertRfd true).phase ≠ .r2WaitDav ∧
     (receiving .r1AssertRfd true).phase ≠ .r6WaitDavLow ∧ (receiving .r1AssertRfd true).phase ≠ .r4Sample1 ∧
     (receiving .r1AssertRfd true).phase ≠ .r7Sample2 ∧ (engineStep (receiving .r1AssertRfd true)).isSome = true) ∧
    (receiving .a0WaitAtn false).phase = .a0WaitAtn ∧
    (withPorts (receiving .a0WaitAtn false) 0xFF true true true false).inp.atn = (receiving .a0WaitAtn false).inp.atn := by
  decide

/-! #### Invariants and whole-machine rules -/

/-- A SEND2 in S4 meets the invariant. -/
theorem sending_inv : (machine (sending .s4WaitDac true) [.host (.dac true)] []).Inv :=
  ⟨by constructor <;> decide, by decide⟩

theorem witness_EveryStepKeepsTheInvariant :
    (machine (sending .s4WaitDac true) [.host (.dac true)] []).Inv ∧
    step (machine (sending .s4WaitDac true) [.host (.dac true)] []) =
      .next ((machine (sending .s4WaitDac true) [.host (.dac true)] []).tick.withHpe
        ((sending .s4WaitDac true).setPort (.dac true))) := ⟨sending_inv, rfl⟩

/-- The completion of a send, and of a receive. -/
theorem witness_CompletionLeavesIdleLines :
    ((machine (sending .s7WaitDacLow true) [] []).Inv ∧ (sending .s7WaitDacLow true).busy = true ∧
      step (machine (sending .s7WaitDacLow true) [] []) =
        .next ((machine (sending .s7WaitDacLow true) [] []).tick.withHpe (sending .s7WaitDacLow true).complete) ∧
      (sending .s7WaitDacLow true).complete.phase = .idle ∧ (sending .s7WaitDacLow true).phase.isSend = true) ∧
    ((machine (receiving .r8DeassertDac true) [] []).Inv ∧ (receiving .r8DeassertDac true).busy = true ∧
      step (machine (receiving .r8DeassertDac true) [] []) =
        .next ((machine (receiving .r8DeassertDac true) [] []).tick.withHpe
          ((receiving .r8DeassertDac true).setDac false).complete)) :=
  ⟨⟨⟨by constructor <;> decide, by decide⟩, by decide, rfl, by decide, by decide⟩,
   ⟨⟨by constructor <;> decide, by decide⟩, by decide, rfl⟩⟩

/-- The state `n` steps later, and every state of that run is reachable. -/
def later : Nat → State → State
  | 0, s => s
  | n + 1, s =>
    match step s with
    | .next t => later n t
    | .fault _ => s
    | .refused _ => s

theorem reachable_later {s : State} : ∀ (n : Nat) {t : State}, Reachable s t → Reachable s (later n t)
  | 0, _, h => h
  | n + 1, t, h => by
    unfold later
    cases e : step t with
    | next u => exact reachable_later n (h.snoc e)
    | fault r => exact h
    | refused r => exact h

/-- From reset: ENABLE, RECV1, and a host that serves it. -/
def receiveFromReset : State :=
  machine Hpe.reset (.controller :: .controller :: serveRecv false 0x06 0x06) [.wr 0x0 0x06, .wr 0x0 0x02]

theorem witness_ReceiveCompletesWithDavLow :
    Reachable { hpe := Hpe.reset, env := receiveFromReset.env } (later 11 receiveFromReset) ∧
    (later 11 receiveFromReset).hpe.phase = .r8DeassertDac ∧
    ((after (step (later 11 receiveFromReset))).map fun t => t.hpe.phase) = some .idle :=
  ⟨reachable_later 11 .refl, by decide, by decide⟩

/-- Held in S1, with each way to end it: RELEASE and reset, and a step that does not. -/
theorem witness_OnlyReleaseOrResetEndsAHeldWait :
    ∀ ts ∈ [[], [Turn.controller], [.rst true]],
      (machine (sending .s1WaitRfd true) ts [.wr 0x0 0x07]).env.rst = false ∧
      (sending .s1WaitRfd true).waitCondition = some false ∧
      (after (step (machine (sending .s1WaitRfd true) ts [.wr 0x0 0x07]))).isSome = true := by decide

theorem witness_OnlyTheHostChangesAPort :
    step (machine e0 [.host (.atn true)] []) = .next ((machine e0 [.host (.atn true)] []).tick.withHpe
      (withPorts e0 0 false false false true)) ∧
    (withPorts e0 0 false false false true).inp ≠ e0.inp := ⟨rfl, by decide⟩

/-- DOUT changed by S2, by S5 and by reset. -/
theorem witness_DoutChangesOnlyInDrivePhases :
    ∀ s ∈ [machine (sending .s2Drive1 true) [] [], machine (sending .s5Drive2 true) [] [],
        machine (e0.setDout 0x5A) [.rst true] []],
      s.env.rst = false ∧ ((after (step s)).map fun t => decide (t.hpe.out.dout ≠ s.hpe.out.dout)) = some true := by
  decide

/-- RX0 changed by R4 and by reset, RX1 by R7. -/
theorem witness_ReceivedBytesChangeOnlyAtSamples :
    (∀ s ∈ [machine (withPorts (receiving .r4Sample1 true) 0x12 true false false false) [] [],
        machine { e0 with rx0 := 0x06 } [.rst true] []],
      s.env.rst = false ∧ ((after (step s)).map fun t => decide (t.hpe.rx0 ≠ s.hpe.rx0)) = some true) ∧
    (∀ s ∈ [machine (withPorts (receiving .r7Sample2 true) 0x34 false false false false) [] []],
      s.env.rst = false ∧ ((after (step s)).map fun t => decide (t.hpe.rx1 ≠ s.hpe.rx1)) = some true) := by decide

/-- TX0 and TX1 changed by a write, TXL0 and TXL1 by an accepted SEND1. -/
theorem witness_SendDataChangesOnlyByItsWrites :
    ((after (step (machine e0 [.controller] [.wr 0x2 0x11]))).map fun t => decide (t.hpe.tx0 ≠ e0.tx0)) = some true ∧
    ((after (step (machine e0 [.controller] [.wr 0x3 0x22]))).map fun t => decide (t.hpe.tx1 ≠ e0.tx1)) = some true ∧
    ((after (step (machine { e0 with tx0 := 0x33 } [.controller] [.wr 0x0 0x01]))).map
      fun t => decide (t.hpe.txl0 ≠ e0.txl0 ∨ t.hpe.txl1 ≠ e0.txl1)) = some true := by decide

/-- OE rises by ENABLE; it falls by RELEASE. -/
theorem witness_OnlyEnableDrivesThePins :
    ((after (step (machine Hpe.reset [.controller] [.wr 0x0 0x06]))).map fun t => (t.hpe.oe, t.hpe.phase)) =
      some (true, .idle) ∧ Hpe.reset.oe = false ∧ Hpe.reset.phase = .released ∧
    ((after (step (machine e0 [.controller] [.wr 0x0 0x07]))).map fun t => t.hpe.oe) = some false ∧ e0.oe = true := by
  decide

/-- DONE rises in S7, ABT by RELEASE in a transfer; DONE falls by ENABLE and by reset. -/
theorem witness_DoneAndAbtChangeAsRuled :
    ((after (step (machine (sending .s7WaitDacLow true) [] []))).map fun t => t.hpe.done) = some true ∧
    ((after (step (machine (sending .s4WaitDac true) [.controller] [.wr 0x0 0x07]))).map fun t => t.hpe.abt) =
      some true ∧
    ((after (step (machine { e0 with done := true } [.controller] [.wr 0x0 0x06]))).map fun t => t.hpe.done) =
      some false ∧
    ((after (step (machine { e0 with done := true } [.rst true] []))).map fun t => t.hpe.done) = some false := by
  decide

/-- The engine's turn, and a controller that reads STATUS. -/
theorem witness_ResetSenseAndDataSizeHaveNoEffect :
    ∀ s ∈ [machine (sending .s2Drive1 true) [] [], machine e0 [.controller] [.rd 0x1 0]],
      (∀ x, s.nextTurn ≠ .host (.rst x)) ∧ (∀ x, s.nextTurn ≠ .host (.dsize x)) ∧
      (∀ x ls, s.env.program ≠ .rd 0x6 x :: ls) ∧ (∀ m x ls, s.env.program ≠ .poll 0x6 m x :: ls) := by
  intro s h
  simp only [List.mem_cons, List.not_mem_nil, or_false] at h
  rcases h with rfl | rfl <;> simp [machine, State.nextTurn]

/-! #### Transfers -/

/-- BUSY = 1 for `n` steps, and then IDLE. -/
def completesIn : Nat → State → Bool
  | 0, s => s.hpe.phase == .idle
  | n + 1, s =>
    s.hpe.busy &&
      match step s with
      | .next t => completesIn n t
      | .fault _ => false
      | .refused _ => false

/-- The events of `n` steps. -/
def eventsIn : Nat → State → List TransferEvent
  | 0, _ => []
  | n + 1, s =>
    match step s with
    | .next t => stepEvents s t ++ eventsIn n t
    | .fault _ => []
    | .refused _ => []

theorem transfer_of_completesIn : ∀ (n : Nat) (s : State), completesIn n s = true →
    Transfer s (eventsIn n s) (later n s)
  | 0, s, h => .complete (by simpa [completesIn] using h)
  | n + 1, s, h => by
    simp only [completesIn, Bool.and_eq_true] at h
    cases e : step s with
    | next t =>
      simp only [e] at h
      simp only [eventsIn, later, e]
      exact .move h.1 e (transfer_of_completesIn n t h.2)
    | fault r => simp [e] at h
    | refused r => simp [e] at h

/-- An IDLE machine with bytes to send and these turns to come. -/
def idleFor (ts : List Turn) : State := machine { e0 with tx0 := 0x12, tx1 := 0x34 } ts []

/-- A served SEND1 and a served SEND2. -/
theorem witness_SendShowsItsEventsInOrder :
    (idleFor (serveSend true)).hpe.phase = .idle ∧
    ∀ w : Bool, ∃ t es u, exec (if w then .send2 else .send1) (idleFor (serveSend w)) = .next t ∧ Transfer t es u := by
  refine ⟨rfl, fun w => ⟨(idleFor (serveSend w)).withHpe ((idleFor (serveSend w)).hpe.acceptSend w), _, _, ?_,
    transfer_of_completesIn (serveSend w).length _ ?_⟩⟩
  · cases w <;> rfl
  · cases w <;> decide

/-- A served RECV1, RECV2 and AWAITCMD. -/
theorem witness_ReceiveShowsItsEventsInOrder :
    (∃ t es u, exec .recv1 (idleFor (serveRecv false 0x06 0x06)) = .next t ∧ Transfer t es u) ∧
    (∃ t es u, exec .recv2 (idleFor (serveRecv true 0x12 0x34)) = .next t ∧ Transfer t es u) ∧
    (∃ t es u, exec .awaitcmd (idleFor (serveAwait 0x06)) = .next t ∧ Transfer t es u) :=
  ⟨⟨(idleFor (serveRecv false 0x06 0x06)).withHpe ((idleFor []).hpe.acceptRecv false), _, _, rfl,
      transfer_of_completesIn 10 _ (by decide)⟩,
   ⟨(idleFor (serveRecv true 0x12 0x34)).withHpe ((idleFor []).hpe.acceptRecv true), _, _, rfl,
      transfer_of_completesIn 12 _ (by decide)⟩,
   ⟨(idleFor (serveAwait 0x06)).withHpe (idleFor []).hpe.acceptAwait, _, _, rfl,
      transfer_of_completesIn 12 _ (by decide)⟩⟩

theorem witness_ServedSendCompletes :
    (idleFor (serveSend true ++ [.controller])).hpe.phase = .idle ∧
    (idleFor (serveSend true ++ [.controller])).env.rst = false ∧
    (idleFor (serveSend true ++ [.controller])).env.schedule = serveSend true ++ [.controller] := ⟨rfl, rfl, rfl⟩

theorem witness_ServedReceiveCompletes :
    (idleFor (serveRecv true 0x12 0x34 ++ [])).hpe.phase = .idle ∧
    (idleFor (serveRecv true 0x12 0x34 ++ [])).env.rst = false ∧
    (idleFor (serveRecv true 0x12 0x34 ++ [])).env.schedule = serveRecv true 0x12 0x34 ++ [] := ⟨rfl, rfl, rfl⟩

theorem witness_ServedAwaitCompletes :
    (idleFor (serveAwait 0x06 ++ [])).hpe.phase = .idle ∧ (idleFor (serveAwait 0x06 ++ [])).env.rst = false ∧
    (idleFor (serveAwait 0x06 ++ [])).env.schedule = serveAwait 0x06 ++ [] := ⟨rfl, rfl, rfl⟩

theorem witness_ReleaseRacesWithCompletion :
    (machine (sending .s7WaitDacLow false) [] [.wr 0x0 0x07]).hpe.phase = .s7WaitDacLow ∧
    (machine (sending .s7WaitDacLow false) [] [.wr 0x0 0x07]).hpe.inp.dac = false ∧
    (machine (sending .s7WaitDacLow false) [] [.wr 0x0 0x07]).env.rst = false ∧
    (machine (sending .s7WaitDacLow false) [] [.wr 0x0 0x07]).env.program = .wr 0x0 0x07 :: [] := by decide

/-! #### Registers, pins, reset -/

/-- Both ends of the reserved addresses, and a read of RX0. -/
theorem witness_RegisterReadsHaveNoSideEffect :
    (0xB ≤ (0xB#4).toNat ∧ 0xB ≤ (0xF#4).toNat) ∧
    (machine e0 [.controller] [.rd 0x4 3]).env.rst = false ∧ (machine e0 [.controller] [.rd 0x4 3]).nextTurn = .controller ∧
    (machine e0 [.controller] [.rd 0x4 3]).env.program = .rd 0x4 3 :: [] := by decide

/-- Each clause at the ends of its range of addresses. -/
theorem witness_RegisterWritesDoAsRuled :
    (machine e0 [] []).env.rst = false ∧ (0x1#4 = 0x1#4 ∨ 0x4 ≤ (0x1#4).toNat) ∧ 0x4 ≤ (0x4#4).toNat ∧
    0x4 ≤ (0xF#4).toNat ∧ ¬ 0x4 ≤ (0x3#4).toNat := by decide

/-- WAITDONE before and after completion. -/
theorem witness_PollWaitsForTheMaskedByte :
    (machine e0 [.controller] [asmWaitDone]).env.rst = false ∧
    (machine e0 [.controller] [asmWaitDone]).nextTurn = .controller ∧
    (machine e0 [.controller] [asmWaitDone]).env.program = .poll 0x1 0x03 0x02 :: [] ∧
    regRead 0x1 { e0 with done := true } &&& 0x03 = 0x02 ∧ regRead 0x1 e0 &&& 0x03 ≠ 0x02 := by decide

theorem witness_PhaseCodesAreTheEighteen : Phase.s5Drive2.code = 0x14#5 ∧ Phase.s5Drive2.code = Phase.s5Drive2.code := by
  decide

/-- Enabled and released. -/
theorem witness_PinsFollowOutputEnable :
    (machine (sending .s4WaitDac true) [] []).hpe.oe = true ∧ State.reset.hpe.oe = false := by decide

/-- Each of the seven ports. -/
theorem witness_HostStepSetsOnePort :
    ∀ c ∈ [PortChange.din 0xC3, .dsize 0b11, .dav true, .rfd true, .dac true, .atn true, .rst true],
      (machine e0 [.host c] []).env.rst = false ∧ (machine e0 [.host c] []).nextTurn = .host c := by decide

/-- In each sample phase, and in a phase that does not sample. -/
theorem witness_RacingSampleTakesAFreeByte :
    ∀ p ∈ [Phase.r4Sample1, .r7Sample2, .r6WaitDavLow],
      (machine (receiving p true) [.sampleRace 0x77] []).env.rst = false ∧
      (machine (receiving p true) [.sampleRace 0x77] []).nextTurn = .sampleRace 0x77 ∧
      (machine (receiving p true) [.sampleRace 0x77] []).hpe.phase = p := by decide

theorem witness_ResetValuesAreAsRuled :
    (machine (sending .s5Drive2 true) [.rst true] []).nextTurn = .rst true ∧ State.reset.hpe.phase = .released := by
  decide

/-- Reset asserted out of a transfer, and a read while it is asserted. -/
theorem witness_ResetHoldsEveryStoredElement :
    (machine (sending .s4WaitDac true) [.rst true] []).nextTurn = .rst true ∧
    (let s : State :=
      { hpe := e0, env := { rst := true, schedule := [.controller], program := [.rd 0x6 0], names := [], freeIndex := 0 } }
     s.env.rst = true ∧ s.nextTurn = .controller ∧ s.env.program = .rd 0x6 0 :: [] ∧
     (after (step s)).isSome = true) := by decide

theorem witness_AnEndedRunStaysAsItIs :
    (machine { e0 with done := true } [] []).ended = true ∧ (machine { e0 with done := true } [] []).env.schedule = [] ∧
    (machine { e0 with done := true } [] []).env.rst = false ∧
    (after (step (machine { e0 with done := true } [] []))).isSome = true := by decide

/-- A run that ends after one step. -/
theorem witness_RunEndsAtItsFirstEndedState :
    EndsAt (machine e0 [.controller] [.wr 0x2 0x5A]) { machine { e0 with tx0 := 0x5A } [] [] with
      env := { rst := false, schedule := [], program := [], names := [], freeIndex := 1 } } := ⟨1, by decide⟩

/-- A receive held in R2 beside a controller that reads STATUS, and WAITDONE in IDLE with DONE = 0. -/
theorem witness_StalledRunsDoNotEnd :
    (let s := machine (receiving .r2WaitDav false) [.engine, .controller] [.rd 0x1 0]
     s.env.rst = false ∧ (∀ t ∈ s.env.schedule, t = .engine ∨ t = .controller) ∧
     s.hpe.waitCondition = some false ∧ ProgLine.wr 0x0 0x07 ∉ s.env.program) ∧
    (let s := machine e0 [.controller] [asmWaitDone]
     s.env.rst = false ∧ (∀ t ∈ s.env.schedule, t = .engine ∨ t = .controller) ∧
     s.env.program = .poll 0x1 0x03 0x02 :: [] ∧ regRead 0x1 s.hpe &&& 0x03 ≠ 0x02 ∧ engineStep s.hpe = none) := by
  decide

/-- A step that starts a transfer, one within it, and the completions of a send and of a receive. -/
theorem witness_EventsFollowThePhase :
    (∀ s ∈ [machine e0 [.controller] [.wr 0x0 0x09], machine (sending .s3AssertDav true) [] [],
        machine (sending .s7WaitDacLow true) [] [], machine (receiving .r8DeassertDac true) [] []],
      s.Inv ∧ (after (step s)).isSome = true) ∧
    e0.busy = false ∧
    ((sending .s3AssertDav true).busy = true ∧
      (after (step (machine (sending .s3AssertDav true) [] []))).map (fun t => t.hpe.busy) = some true) ∧
    (∀ h ∈ [sending .s7WaitDacLow true, receiving .r8DeassertDac true],
      h.busy = true ∧ (after (step (machine h [] []))).map (fun t => t.hpe.phase) = some .idle) ∧
    (sending .s7WaitDacLow true).phase.isSend = true ∧ (receiving .r8DeassertDac true).phase.isSend = false := by
  refine ⟨?_, by decide⟩
  intro s m
  simp only [List.mem_cons, List.not_mem_nil, or_false] at m
  rcases m with rfl | rfl | rfl | rfl <;> exact ⟨⟨by constructor <;> decide, by decide⟩, by decide⟩

end Sys2Proof.Tests
end

namespace Sys2Proof.Machine

/-! ### DOUT -/

/-- The engine writes DOUT in the two drive phases only (40_send.md R104, R107). -/
theorem EngineMove.dout_cases {h h' : Hpe} (m : EngineMove h h') :
    h'.out.dout = h.out.dout ∨
    (h.phase = .s2Drive1 ∧ h'.out.dout = h.txl0) ∨ (h.phase = .s5Drive2 ∧ h'.out.dout = h.txl1) := by
  cases m with
  | s2 p => exact .inr (.inl ⟨p, rfl⟩)
  | s5 p => exact .inr (.inr ⟨p, rfl⟩)
  | _ => exact .inl rfl

/-- Of all the agents only the engine and the assertion of `rst` write DOUT (10_state.md R25). -/
theorem HpeMove.dout_cases {s : State} {h : Hpe} (m : HpeMove s h) :
    h.out.dout = s.hpe.out.dout ∨ (s.nextTurn = .engine ∧ EngineMove s.hpe h) ∨
    (s.nextTurn = .rst true ∧ h = s.hpe.resetStored) := by
  cases m with
  | engine n m => exact .inr (.inl ⟨n, m⟩)
  | reset n => exact .inr (.inr ⟨n, rfl⟩)
  | _ => exact .inl rfl

/-- Settles O30, by the inversion of a step: of its kinds only an engine move and a reset touch DOUT, and of the
engine's moves only those of S2 and S5. -/
theorem doutChangesOnlyInDrivePhases : Obligations.DoutChangesOnlyInDrivePhases := by
  unfold Obligations.DoutChangesOnlyInDrivePhases
  intro s t r e changed
  rcases (step_hpe r e).dout_cases with same | ⟨n, m⟩ | ⟨n, reset⟩
  · exact absurd same changed
  · exact .inl ⟨n, m.dout_cases.resolve_left changed⟩
  · exact .inr ⟨n, by rw [reset]; rfl⟩

/-! ### Register reads -/

theorem regRead_status (h : Hpe) : regRead 0x1 h = h.status := rfl
theorem regRead_linesIn (h : Hpe) : regRead 0x6 h = h.linesIn := rfl
theorem regRead_linesOut (h : Hpe) : regRead 0x8 h = h.linesOut := rfl
theorem regRead_phaseReg (h : Hpe) : regRead 0x9 h = h.phaseReg := rfl

/-- The reserved addresses read 0x00 (20_memory.md R61). -/
theorem regRead_reserved {a : RegAddr} (ha : 0xB ≤ a.toNat) (h : Hpe) : regRead a h = 0x00 := by
  unfold regRead
  split
  case h_12 => rfl
  all_goals omega

/-! A register is a concatenation of fields: a field is found by dropping the fields below it. -/

theorem getLsbD_append_of_le {m n i : Nat} {x : BitVec m} {y : BitVec n} (h : n ≤ i) :
    (x ++ y).getLsbD i = x.getLsbD (i - n) := by
  rw [BitVec.getLsbD_append, if_neg (Nat.not_lt.2 h)]

theorem getLsbD_append_ofBool_zero {m : Nat} {x : BitVec m} {b : Bool} :
    (x ++ BitVec.ofBool b).getLsbD 0 = b :=
  BitVec.getLsbD_concat_zero

/-- Settles O42: the fields of STATUS, from the lowest up. -/
theorem statusRegisterLayout : Obligations.StatusRegisterLayout := by
  unfold Obligations.StatusRegisterLayout
  intro h
  rw [regRead_status, Hpe.status, Hpe.en, Hpe.busy_eq_decide]
  and_intros <;>
    simp (disch := decide) only [getLsbD_append_of_le, getLsbD_append_ofBool_zero, Nat.reduceSub,
      BitVec.extractLsb'_append_eq_of_le, BitVec.extractLsb'_append_eq_right, BitVec.extractLsb'_eq_self]

/-- Settles O43: the fields of each of the three registers, from the lowest up. -/
theorem lineAndPhaseRegisterLayouts : Obligations.LineAndPhaseRegisterLayouts := by
  unfold Obligations.LineAndPhaseRegisterLayouts
  intro h
  rw [regRead_linesIn, Hpe.linesIn, regRead_linesOut, Hpe.linesOut, regRead_phaseReg, Hpe.phaseReg]
  and_intros <;>
    simp (disch := decide) only [getLsbD_append_of_le, getLsbD_append_ofBool_zero, BitVec.getLsbD_zero, Nat.reduceSub,
      BitVec.extractLsb'_append_eq_of_le, BitVec.extractLsb'_append_eq_right, BitVec.extractLsb'_eq_self]

/-- An RD line binds the byte it reads and is used up. -/
theorem controllerTurn_of_rd {s : State} {a : RegAddr} {x : Nat} {ls : List ProgLine}
    (p : s.env.program = .rd a x :: ls) :
    controllerTurn s = .next ((s.withProgram ls).bindName x (regRead a s.hpe)) := by
  rw [controllerTurn, p]

/-- Settles O44: each address by its line of the read table, and the controller's read by its turn. -/
theorem registerReadsHaveNoSideEffect : Obligations.RegisterReadsHaveNoSideEffect := by
  unfold Obligations.RegisterReadsHaveNoSideEffect
  refine ⟨fun h => ⟨rfl, rfl, rfl, rfl, rfl, rfl, rfl, fun a ha => regRead_reserved ha h⟩, ?_⟩
  intro s a x ls r n p
  rw [step_of_controller r n, controllerTurn_of_rd (s := s.tick) p]
  rfl

/-! ### Reset -/

/-- An assertion of `rst` does the same whether `rst` was asserted before or not: to reset twice is to reset once. -/
theorem State.holdReset_driveRst_true (s : State) : s.holdReset.driveRst true = s.driveRst true := by
  cases e : s.env.rst with
  | false => rw [State.holdReset_of_released _ e]
  | true => rw [State.holdReset_of_asserted _ e]; rfl

theorem step_of_rst_asserted {s : State} (n : s.nextTurn = .rst true) :
    step s = .next (s.tick.driveRst true) := by
  rw [step_eq, n, turnOf, State.holdReset_driveRst_true]

/-- Settles O51: the assertion of `rst` leaves the reset values with the old ports, field by field. -/
theorem resetValuesAreAsRuled : Obligations.ResetValuesAreAsRuled := by
  unfold Obligations.ResetValuesAreAsRuled
  intro s n
  refine ⟨_, step_of_rst_asserted n, ?_⟩
  and_intros <;> rfl

end Sys2Proof.Machine

namespace Sys2Proof.Machine

/-! ### Register writes -/

section RegisterWrites

variable {s : State} (r : s.env.rst = false) (v : Byte)
include r

theorem regWrite_cmd : regWrite 0x0 v s = cmdWrite v s := by
  rw [regWrite, r]; rfl

theorem regWrite_tx0 : regWrite 0x2 v s = .next (s.withHpe { s.hpe with tx0 := v }) := by
  rw [regWrite, r]; rfl

theorem regWrite_tx1 : regWrite 0x3 v s = .next (s.withHpe { s.hpe with tx1 := v }) := by
  rw [regWrite, r]; rfl

/-- The read-only and the reserved addresses take no write (20_memory.md R62). -/
theorem regWrite_unwritable {a : RegAddr} (ha : a = 0x1 ∨ 0x4 ≤ a.toNat) : regWrite a v s = .next s := by
  rcases regWrite_cases a v s r with ⟨rfl, -⟩ | ⟨rfl, -⟩ | ⟨rfl, -⟩ | ⟨-, -, -, e⟩
  · exact absurd ha (by decide)
  · exact absurd ha (by decide)
  · exact absurd ha (by decide)
  · exact e

end RegisterWrites

/-- Settles O45: each address by its line of the write table. -/
theorem registerWritesDoAsRuled : Obligations.RegisterWritesDoAsRuled := by
  unfold Obligations.RegisterWritesDoAsRuled
  intro s a v r
  refine ⟨?_, ?_, ?_, regWrite_unwritable r v⟩ <;> rintro rfl
  · exact regWrite_cmd r v
  · exact regWrite_tx0 r v
  · exact regWrite_tx1 r v

/-! ### What writes the output fields -/

/-- An engine step writes at most one of the four output latches (20_memory.md R66). -/
theorem EngineMove.out_cases {h h' : Hpe} (m : EngineMove h h') :
    h'.out = { h.out with dout := h'.out.dout } ∨ h'.out = { h.out with dav := h'.out.dav } ∨
    h'.out = { h.out with rfd := h'.out.rfd } ∨ h'.out = { h.out with dac := h'.out.dac } := by
  cases m with
  | s3 | s6 => exact .inr (.inl rfl)
  | r1 | r3 => exact .inr (.inr (.inl rfl))
  | r5 | r8 => exact .inr (.inr (.inr rfl))
  | _ => exact .inl rfl

/-- A transfer operation keeps the outputs, accepted or rejected, if its accept does. -/
theorem startTransfer_keeps_outputs {f : Hpe → Hpe} {s t : State} (e : startTransfer f s = .next t)
    (keeps : ∀ h, (f h).out = h.out ∧ (f h).oe = h.oe) : t.hpe.out = s.hpe.out ∧ t.hpe.oe = s.hpe.oe := by
  rcases startTransfer_cases f s with ⟨-, z⟩ | ⟨-, z⟩ | ⟨-, z⟩ <;> rw [z] at e <;> cases e
  · exact ⟨rfl, rfl⟩
  · exact ⟨rfl, rfl⟩
  · exact keeps _

/-- An operation keeps the outputs, but ENABLE and RELEASE may bring the handshake latches to their idle level
(42_control.md R142, R143). -/
theorem exec_outputs {i : Instr} {s t : State} (e : exec i s = .next t) :
    (t.hpe.out = s.hpe.out ∧ t.hpe.oe = s.hpe.oe) ∨
    ((i = .enable ∨ i = .release) ∧ t.hpe.out = s.hpe.idleLatches.out) := by
  cases i with
  | nop => cases e; exact .inl ⟨rfl, rfl⟩
  | enable =>
    rcases execEnable_cases s with ⟨-, z⟩ | ⟨-, z⟩ <;> rw [exec, z] at e <;> cases e
    · exact .inl ⟨rfl, rfl⟩
    · exact .inr ⟨.inl rfl, rfl⟩
  | release => cases e; exact .inr ⟨.inr rfl, rfl⟩
  | send1 | send2 | recv1 | recv2 | awaitcmd =>
    exact .inl (startTransfer_keeps_outputs e fun _ => ⟨rfl, rfl⟩)

/-- Settles O20: the engine by its moves, the operations by what each can do to the outputs. -/
theorem engineStepWritesAtMostOneOutputField : Obligations.EngineStepWritesAtMostOneOutputField := by
  unfold Obligations.EngineStepWritesAtMostOneOutputField
  constructor
  · intro h h' e
    have m := engineStep_cases e
    obtain ⟨-, oe, -⟩ := m.frame
    exact ⟨oe, m.out_cases⟩
  · intro i s t e
    rcases exec_outputs e with ⟨out, oe⟩ | ⟨op, out⟩
    · exact ⟨by rw [out], fun _ _ => ⟨out, oe⟩⟩
    · exact ⟨by rw [out]; rfl, fun ne nr => absurd op (by simp [ne, nr])⟩

/-! ### What the engine reads -/

/-- The inbound port that the engine looks at in a phase: the level that a wait tests and the DIN of a sample
(40_send.md R103 to R109, 41_receive.md R123 to R131). -/
def Phase.reads : Phase → PortChange → Bool
  | .a0WaitAtn, .atn _ => true
  | .r2WaitDav, .dav _ | .r6WaitDavLow, .dav _ => true
  | .r4Sample1, .din _ | .r7Sample2, .din _ => true
  | .s1WaitRfd, .rfd _ => true
  | .s4WaitDac, .dac _ | .s7WaitDacLow, .dac _ => true
  | _, _ => false

theorem map_waitUntil (f : Hpe → Hpe) (c : Bool) (h : Hpe) : (waitUntil c h).map f = waitUntil c (f h) := by
  cases c <;> rfl

/-- The engine steps the same way before and after a host step on a port that its phase does not read. -/
theorem engineStep_setPort {h : Hpe} {c : PortChange} (unread : h.phase.reads c = false) :
    engineStep (h.setPort c) = (engineStep h).map (·.setPort c) := by
  unfold engineStep
  rw [Hpe.setPort_phase]
  revert unread
  cases h.phase <;> intro unread <;>
    simp only [stepA0, stepR2, stepR6, stepS1, stepS4, stepS7, map_waitUntil]
  case a0WaitAtn => cases c with | atn => cases unread | _ => rfl
  case r2WaitDav | r6WaitDavLow => cases c with | dav => cases unread | _ => rfl
  case r4Sample1 | r7Sample2 => cases c with | din => cases unread | _ => rfl
  case s1WaitRfd => cases c with | rfd => cases unread | _ => rfl
  case s4WaitDac | s7WaitDacLow => cases c with | dac => cases unread | _ => rfl
  all_goals rfl

/-! ### Data steps and handshake steps -/

/-- The sample and drive phases (20_memory.md R65). -/
abbrev dataPhases : List Phase := [.r4Sample1, .r7Sample2, .s2Drive1, .s5Drive2]

/-- The step of a sample or drive phase is that sample or drive, and nothing else (20_memory.md R65). -/
theorem EngineMove.of_dataPhase {h h' : Hpe} (m : EngineMove h h') (d : h.phase ∈ dataPhases) :
    (h.phase = .r4Sample1 ∧ h' = sampleByte1 h.inp.din h) ∨
    (h.phase = .r7Sample2 ∧ h' = sampleByte2 h.inp.din h) ∨
    (h.phase = .s2Drive1 ∧ h' = (h.setDout h.txl0).goTo .s3AssertDav) ∨
    (h.phase = .s5Drive2 ∧ h' = (h.setDout h.txl1).goTo .s6DeassertDav) := by
  cases m with
  | r4 p => exact .inl ⟨p, rfl⟩
  | r7 p => exact .inr (.inl ⟨p, rfl⟩)
  | s2 p => exact .inr (.inr (.inl ⟨p, rfl⟩))
  | s5 p => exact .inr (.inr (.inr ⟨p, rfl⟩))
  | _ => simp_all

/-- Outside the sample and drive phases the engine writes no data field (20_memory.md R65). -/
theorem EngineMove.data_kept {h h' : Hpe} (m : EngineMove h h') (nd : h.phase ∉ dataPhases) :
    h'.out.dout = h.out.dout ∧ h'.rx0 = h.rx0 ∧ h'.rx1 = h.rx1 := by
  cases m with
  | r4 p | r7 p | s2 p | s5 p => exact absurd (by simp [p]) nd
  | _ => exact ⟨rfl, rfl, rfl⟩

/-- A sample or drive phase looks at no port but DIN. -/
theorem Phase.reads_of_dataPhase {p : Phase} {c : PortChange} (d : p ∈ dataPhases) (nc : ∀ v, c ≠ .din v) :
    p.reads c = false := by
  simp only [List.mem_cons, List.not_mem_nil, or_false] at d
  rcases d with rfl | rfl | rfl | rfl
  · cases c with | din v => exact absurd rfl (nc v) | _ => rfl
  · cases c with | din v => exact absurd rfl (nc v) | _ => rfl
  · rfl
  · rfl

/-- Only the two samples look at DIN. -/
theorem Phase.reads_din_of_not_dataPhase {p : Phase} (nd : p ∉ dataPhases) (v : Byte) :
    p.reads (.din v) = false := by
  cases p with
  | r4Sample1 | r7Sample2 => exact absurd (by decide) nd
  | _ => rfl

/-- The HPE with other data latches: what the samples and drives read and write, but for DIN. -/
def Hpe.withData (h : Hpe) (txl0 txl1 rx0 rx1 dout : Byte) : Hpe :=
  { h with txl0 := txl0, txl1 := txl1, rx0 := rx0, rx1 := rx1, out := { h.out with dout := dout } }

@[simp] theorem Hpe.withData_phase (h : Hpe) (txl0 txl1 rx0 rx1 dout : Byte) :
    (h.withData txl0 txl1 rx0 rx1 dout).phase = h.phase := rfl

/-- Outside the sample and drive phases the engine steps the same way whatever the data latches hold. -/
theorem engineStep_withData {h : Hpe} (nd : h.phase ∉ dataPhases) (txl0 txl1 rx0 rx1 dout : Byte) :
    engineStep (h.withData txl0 txl1 rx0 rx1 dout) = (engineStep h).map (·.withData txl0 txl1 rx0 rx1 dout) := by
  unfold engineStep
  rw [Hpe.withData_phase]
  revert nd
  cases h.phase <;> intro nd <;>
    simp only [stepA0, stepR2, stepR6, stepS1, stepS4, stepS7, map_waitUntil]
  case r4Sample1 | r7Sample2 | s2Drive1 | s5Drive2 => exact absurd (by decide) nd
  all_goals rfl

/-- A sample or drive step goes the same way whatever the handshake lines and ATN are. -/
theorem engineStep_of_other_lines {h h' : Hpe} (e : engineStep h = some h') (d : h.phase ∈ dataPhases)
    (dav rfd dac atn : Bool) :
    engineStep { h with inp := { h.inp with dav := dav, rfd := rfd, dac := dac, atn := atn } } =
      some { h' with inp := { h.inp with dav := dav, rfd := rfd, dac := dac, atn := atn } } := by
  obtain ⟨inp, -⟩ := (engineStep_cases e).frame
  calc engineStep ((((h.setPort (.dav dav)).setPort (.rfd rfd)).setPort (.dac dac)).setPort (.atn atn))
    _ = some ((((h'.setPort (.dav dav)).setPort (.rfd rfd)).setPort (.dac dac)).setPort (.atn atn)) := by
      simp [engineStep_setPort, Phase.reads_of_dataPhase d, e]
    _ = _ := by rw [← inp]; rfl

/-- Any other step goes the same way whatever the data fields are. -/
theorem engineStep_of_other_data {h h' : Hpe} (e : engineStep h = some h') (nd : h.phase ∉ dataPhases)
    (din txl0 txl1 dout rx0 rx1 : Byte) :
    engineStep { h with inp := { h.inp with din := din }, txl0 := txl0, txl1 := txl1, rx0 := rx0, rx1 := rx1,
                        out := { h.out with dout := dout } } =
      some { h' with inp := { h.inp with din := din }, txl0 := txl0, txl1 := txl1, rx0 := rx0, rx1 := rx1,
                     out := { h'.out with dout := dout } } := by
  obtain ⟨inp, -⟩ := (engineStep_cases e).frame
  calc engineStep ((h.setPort (.din din)).withData txl0 txl1 rx0 rx1 dout)
    _ = (engineStep (h.setPort (.din din))).map (·.withData txl0 txl1 rx0 rx1 dout) :=
      engineStep_withData (h := h.setPort (.din din)) nd ..
    _ = some ((h'.setPort (.din din)).withData txl0 txl1 rx0 rx1 dout) := by
      rw [engineStep_setPort (Phase.reads_din_of_not_dataPhase nd din), e]; rfl
    _ = _ := by rw [← inp]; rfl

/-- Settles O21: in a data phase the step is one of four samples and drives; in any other it keeps the data fields.
Neither sort reads what the other is about, since the engine's step commutes with a change of it. -/
theorem dataAndHandshakeStepsAreApart : Obligations.DataAndHandshakeStepsAreApart := by
  unfold Obligations.DataAndHandshakeStepsAreApart
  intro h h' e
  have m := engineStep_cases e
  refine ⟨fun d => ⟨?_, ?_, engineStep_of_other_lines e d⟩, fun nd => ⟨m.data_kept nd, engineStep_of_other_data e nd⟩⟩
  · rcases m.of_dataPhase d with ⟨-, rfl⟩ | ⟨-, rfl⟩ | ⟨-, rfl⟩ | ⟨-, rfl⟩ <;> exact ⟨rfl, rfl, rfl⟩
  · rcases m.of_dataPhase d with ⟨p, rfl⟩ | ⟨p, rfl⟩ | ⟨p, rfl⟩ | ⟨p, rfl⟩ <;> simp [p, sampleByte1, sampleByte2]

end Sys2Proof.Machine

namespace Sys2Proof

/-! ### Decoding against the opcode map -/

theorem decode_encode (i : Instr) : decode (encode i) = .ok i := by
  rw [decode, Cmd8.ofByte_encode]
  cases i <;> rfl

theorem decode_eq_ok_iff (i : Instr) (v : Byte) : decode v = .ok i ↔ v = encode i :=
  ⟨eq_encode_of_decode, fun h => h ▸ decode_encode i⟩

theorem decode_eq_error_iff (v : Byte) : (∃ e, decode v = .error e) ↔ ∀ i, v ≠ encode i := by
  simp only [ne_eq, ← decode_eq_ok_iff]
  cases decode v with
  | ok i => simp
  | error e => simp

/-- The eight operations, in the order of the rows of 30_encoding.md R82. -/
def Instr.rows : List Instr := [.nop, .send1, .send2, .recv1, .recv2, .awaitcmd, .enable, .release]

theorem Instr.mem_rows (i : Instr) : i ∈ Instr.rows := by
  cases i <;> decide

theorem Instr.rows_map_encode :
    Instr.rows.map encode = [0x00#8, 0x01#8, 0x09#8, 0x02#8, 0x0A#8, 0x03#8, 0x06#8, 0x07#8] := rfl

theorem not_mem_map_encode_iff (v : Byte) : v ∉ Instr.rows.map encode ↔ ∀ i, v ≠ encode i := by
  simp [Instr.mem_rows, eq_comm]

/-- Settles O2: decoding inverts encoding, so that a byte which is no operation's byte has nothing to decode to. -/
theorem decodeAndEncodeAgree : Obligations.DecodeAndEncodeAgree := by
  unfold Obligations.DecodeAndEncodeAgree
  refine ⟨decode_eq_ok_iff, Instr.rows_map_encode, fun v => ?_⟩
  rw [decode_eq_error_iff, ← Instr.rows_map_encode, not_mem_map_encode_iff]

/-! ### The three groups of illegal bytes -/

/-! What the operation table answers for fields that name no operation (30_encoding.md R81). -/

theorem decodeOp_ne_reservedField (w : Bool) (op : BitVec 3) : decodeOp w op.toNat ≠ .error .reservedField := by
  revert op; cases w <;> decide

theorem decodeOp_reservedOp_iff (c : Cmd8) : decodeOp c.w c.op.toNat = .error .reservedOp ↔ c.opAssigned = false := by
  obtain ⟨rsv, w, op⟩ := c
  simp only [Cmd8.opAssigned]
  revert op; cases w <;> decide

theorem decodeOp_widthNotAllowed_iff (c : Cmd8) :
    decodeOp c.w c.op.toNat = .error .widthNotAllowed ↔ c.opAssigned = true ∧ c.widthAllowed = false := by
  obtain ⟨rsv, w, op⟩ := c
  simp only [Cmd8.opAssigned, Cmd8.widthAllowed]
  revert op; cases w <;> decide

/-! Each group is the failure of one check of the fields, with the checks before it passed. -/

theorem decode_of_rsvZero {v : Byte} (z : (Cmd8.ofByte v).rsvZero = true) :
    decode v = decodeOp (Cmd8.ofByte v).w (Cmd8.ofByte v).op.toNat := if_pos z

theorem decode_of_not_rsvZero {v : Byte} (z : (Cmd8.ofByte v).rsvZero = false) :
    decode v = .error .reservedField := if_neg (by simp [z])

theorem decode_reservedField_iff (v : Byte) :
    decode v = .error .reservedField ↔ (Cmd8.ofByte v).rsvZero = false := by
  cases z : (Cmd8.ofByte v).rsvZero with
  | false => simp [decode_of_not_rsvZero z]
  | true => simp [decode_of_rsvZero z, decodeOp_ne_reservedField]

theorem decode_reservedOp_iff (v : Byte) :
    decode v = .error .reservedOp ↔ (Cmd8.ofByte v).rsvZero = true ∧ (Cmd8.ofByte v).opAssigned = false := by
  cases z : (Cmd8.ofByte v).rsvZero with
  | false => simp [decode_of_not_rsvZero z]
  | true => simp [decode_of_rsvZero z, decodeOp_reservedOp_iff]

theorem decode_widthNotAllowed_iff (v : Byte) :
    decode v = .error .widthNotAllowed ↔ (Cmd8.ofByte v).rsvZero = true ∧ (Cmd8.ofByte v).opAssigned = true ∧
      (Cmd8.ofByte v).widthAllowed = false := by
  cases z : (Cmd8.ofByte v).rsvZero with
  | false => simp [decode_of_not_rsvZero z]
  | true => simp [decode_of_rsvZero z, decodeOp_widthNotAllowed_iff]

/-! The bytes whose fields fail each check (30_encoding.md R83). -/

theorem Cmd8.ofByte_not_rsvZero_iff (v : Byte) : (Cmd8.ofByte v).rsvZero = false ↔ 0x10 ≤ v.toNat := by
  have high : (v.extractLsb' 4 4).toNat = v.toNat / 16 % 16 := by
    rw [BitVec.extractLsb'_toNat, Nat.shiftRight_eq_div_pow]
  have bound := v.isLt
  rw [Cmd8.rsvZero, Cmd8.ofByte, beq_eq_false_iff_ne, ne_eq, ← BitVec.toNat_inj, high, BitVec.toNat_ofNat]
  omega

theorem Cmd8.ofByte_not_opAssigned_iff (v : Byte) :
    ((Cmd8.ofByte v).rsvZero = true ∧ (Cmd8.ofByte v).opAssigned = false) ↔
      v ∈ [0x04#8, 0x05#8, 0x0C#8, 0x0D#8] := by
  revert v; decide

theorem Cmd8.ofByte_not_widthAllowed_iff (v : Byte) :
    ((Cmd8.ofByte v).rsvZero = true ∧ (Cmd8.ofByte v).opAssigned = true ∧ (Cmd8.ofByte v).widthAllowed = false) ↔
      v ∈ [0x08#8, 0x0B#8, 0x0E#8, 0x0F#8] := by
  revert v; decide

theorem decode_reservedField_iff_le (v : Byte) : decode v = .error .reservedField ↔ 0x10 ≤ v.toNat :=
  (decode_reservedField_iff v).trans (Cmd8.ofByte_not_rsvZero_iff v)

theorem decode_reservedOp_iff_mem (v : Byte) :
    decode v = .error .reservedOp ↔ v ∈ [0x04#8, 0x05#8, 0x0C#8, 0x0D#8] :=
  (decode_reservedOp_iff v).trans (Cmd8.ofByte_not_opAssigned_iff v)

theorem decode_widthNotAllowed_iff_mem (v : Byte) :
    decode v = .error .widthNotAllowed ↔ v ∈ [0x08#8, 0x0B#8, 0x0E#8, 0x0F#8] :=
  (decode_widthNotAllowed_iff v).trans (Cmd8.ofByte_not_widthAllowed_iff v)

end Sys2Proof

namespace Sys2Proof.Machine

/-- A CMD write of an illegal byte, of whichever group, is rejected as ILLEGAL (60_exceptions.md R161). -/
theorem cmdWrite_of_illegal {v : Byte} {e : Illegal} (d : decode v = .error e) (s : State) :
    cmdWrite v s = .next (s.reject .illegal) := by
  rw [cmdWrite, d]

/-- Settles O3: each group by the check that its bytes fail, and the rejection since a byte of any group is illegal. -/
theorem illegalBytesAreRejected : Obligations.IllegalBytesAreRejected := by
  unfold Obligations.IllegalBytesAreRejected
  intro s v
  refine ⟨decode_reservedField_iff_le v, decode_reservedOp_iff_mem v, decode_widthNotAllowed_iff_mem v, ?_⟩
  rintro (rsv | op | width)
  · exact cmdWrite_of_illegal ((decode_reservedField_iff_le v).2 rsv) s
  · exact cmdWrite_of_illegal ((decode_reservedOp_iff_mem v).2 op) s
  · exact cmdWrite_of_illegal ((decode_widthNotAllowed_iff_mem v).2 width) s

end Sys2Proof.Machine

namespace Sys2Proof.Machine

/-! ### The two widths of a send -/

theorem startTransfer_of_idle {s : State} (f : Hpe → Hpe) (p : s.hpe.phase = .idle) :
    startTransfer f s = .next (s.withHpe (f s.hpe.clearStatus)) := by
  simp [startTransfer, p]

/-- A rejected transfer operation does the same whatever its accept would set. -/
theorem startTransfer_of_not_idle {s : State} (f g : Hpe → Hpe) (p : s.hpe.phase ≠ .idle) :
    startTransfer f s = startTransfer g s := by
  simp [startTransfer, p]

/-- SEND2 where it is accepted, next to SEND1 (40_send.md R100, R101). -/
theorem exec_send2_of_send1_accepted {s t : State} (e : exec .send1 s = .next t) (p : s.hpe.phase = .idle) :
    t.hpe.w = false ∧ exec .send2 s = .next { t with hpe := { t.hpe with w := true } } := by
  rw [exec, execSend1, startTransfer_of_idle _ p] at e
  cases e
  exact ⟨rfl, startTransfer_of_idle _ p⟩

/-- Only the two phases that choose their successor look at W (40_send.md R106, 41_receive.md R129). -/
theorem engineStep_setWidth {h : Hpe} (ns4 : h.phase ≠ .s4WaitDac) (nr6 : h.phase ≠ .r6WaitDavLow) (b : Bool) :
    engineStep (h.setWidth b) = (engineStep h).map (·.setWidth b) := by
  unfold engineStep
  rw [Hpe.setWidth_phase]
  revert ns4 nr6
  cases h.phase <;> intro ns4 nr6 <;> simp only [stepA0, stepR2, stepS1, stepS7, map_waitUntil]
  case s4WaitDac => exact absurd rfl ns4
  case r6WaitDavLow => exact absurd rfl nr6
  all_goals rfl

/-- Settles O15: the accepts side by side, the engine's step commuting with a change of W, and the two ways on
from S4. -/
theorem sendWidthsDifferInTwoWays : Obligations.SendWidthsDifferInTwoWays := by
  unfold Obligations.SendWidthsDifferInTwoWays
  refine ⟨fun s t e => ⟨exec_send2_of_send1_accepted e, fun p => (startTransfer_of_not_idle _ _ p).trans e⟩, ?_, ?_⟩
  · intro h b send ns4
    exact engineStep_setWidth ns4 (fun r6 => by rw [r6] at send; cases send) b
  · intro h p dac
    exact ⟨(EngineMove.s4two (h := h.setWidth true) p dac rfl).engineStep_eq,
      (EngineMove.s4one (h := h.setWidth false) p dac rfl).engineStep_eq⟩

/-! ### What a send reads and writes -/

/-- A send looks at RFD in S1 and at DAC in S4 and S7, and at no other port (40_send.md R110). -/
theorem Phase.unread_of_isSend {p : Phase} {c : PortChange} (send : p.isSend = true)
    (s1 : p = .s1WaitRfd → ∀ b, c ≠ .rfd b) (s4 : p = .s4WaitDac → ∀ b, c ≠ .dac b)
    (s7 : p = .s7WaitDacLow → ∀ b, c ≠ .dac b) : p.reads c = false := by
  cases p with
  | s1WaitRfd => cases c with | rfd b => exact absurd rfl (s1 rfl b) | _ => rfl
  | s4WaitDac => cases c with | dac b => exact absurd rfl (s4 rfl b) | _ => rfl
  | s7WaitDacLow => cases c with | dac b => exact absurd rfl (s7 rfl b) | _ => rfl
  | s2Drive1 | s3AssertDav | s5Drive2 | s6DeassertDav => rfl
  | _ => cases send

/-- No send step writes out.RFD or out.DAC (40_send.md R110). -/
theorem EngineMove.rfd_dac_kept_of_isSend {h h' : Hpe} (m : EngineMove h h') (send : h.phase.isSend = true) :
    h'.out.rfd = h.out.rfd ∧ h'.out.dac = h.out.dac := by
  cases m with
  | r1 p | r3 p | r5 p | r8 p => rw [p] at send; cases send
  | _ => exact ⟨rfl, rfl⟩

/-- The engine steps the same way with any number of ports changed that its phase does not read, and it leaves them
as they are. -/
theorem engineStep_of_unread_ports {h : Hpe} (cs : List PortChange) (unread : ∀ c ∈ cs, h.phase.reads c = false) :
    engineStep { h with inp := cs.foldl InPorts.set h.inp } =
      (engineStep h).map fun h' => { h' with inp := cs.foldl InPorts.set h.inp } := by
  induction cs generalizing h with
  | nil =>
    cases e : engineStep h with
    | none => exact e
    | some h' =>
      obtain ⟨inp, -⟩ := (engineStep_cases e).frame
      exact e.trans (congrArg some (by simp [← inp]))
  | cons c cs ih =>
    obtain ⟨head, tail⟩ := List.forall_mem_cons.1 unread
    have rest := ih (h := h.setPort c) tail
    rw [engineStep_setPort head, Option.map_map] at rest
    exact rest

/-- Settles O22: every port a clause speaks of is one that the phase does not read. -/
theorem sendReadsOnlyRfdAndDac : Obligations.SendReadsOnlyRfdAndDac := by
  unfold Obligations.SendReadsOnlyRfdAndDac
  intro h send
  refine ⟨fun din dsize dav atn rst => ?_, fun ns1 rfd => ?_, fun ns4 ns7 dac => ?_,
    fun h' e => (engineStep_cases e).rfd_dac_kept_of_isSend send⟩
  · exact engineStep_of_unread_ports [.din din, .dsize dsize, .dav dav, .atn atn, .rst rst]
      (by simp [Phase.unread_of_isSend send])
  · exact engineStep_of_unread_ports [.rfd rfd] (by simp [Phase.unread_of_isSend send, ns1])
  · exact engineStep_of_unread_ports [.dac dac] (by simp [Phase.unread_of_isSend send, ns4, ns7])

/-! ### Held waits -/

/-- An engine that waits is in a transfer. -/
theorem Hpe.busy_of_waitCondition {h : Hpe} {c : Bool} (wait : h.waitCondition = some c) : h.busy = true := by
  revert wait
  unfold Hpe.waitCondition Hpe.busy
  cases h.phase <;> simp [Phase.busy]

/-- A held engine has no step (00_scope.md R10). -/
theorem EngineMove.not_held {h h' : Hpe} (m : EngineMove h h') : h.waitCondition ≠ some false := by
  cases m <;> simp [Hpe.waitCondition, *]

/-- What a step can do to the phase of a held engine. -/
theorem HpeMove.phase_of_held {s : State} {h : Hpe} (m : HpeMove s h) (held : s.hpe.waitCondition = some false) :
    h.phase = s.hpe.phase ∨
    (s.nextTurn = .controller ∧ (∃ ls, s.env.program = .wr 0x0 0x07 :: ls) ∧ h = s.hpe.release) ∨
    (s.nextTurn = .rst true ∧ h = s.hpe.resetStored) := by
  have busy := Hpe.busy_of_waitCondition held
  cases m with
  | stay | port | tx0 | tx1 | reject | race0 => exact .inl rfl
  | engine _ m => exact absurd held m.not_held
  | release n p => exact .inr (.inl ⟨n, ⟨_, p⟩, rfl⟩)
  | reset n => exact .inr (.inr ⟨n, rfl⟩)
  | enable _ _ rest => rw [rest] at busy; cases busy
  | send1 _ _ idle | send2 _ _ idle | recv1 _ _ idle | recv2 _ _ idle | awaitcmd _ _ idle =>
    rw [Hpe.not_busy_of_idle idle] at busy; cases busy
  | race1 _ p | race2 _ p => simp [Hpe.waitCondition, p] at held

/-- Settles O28, by the inversion of a step: the engine is held, every accept but RELEASE's needs a phase outside a
transfer, and no sample is taken in a wait phase. -/
theorem onlyReleaseOrResetEndsAHeldWait : Obligations.OnlyReleaseOrResetEndsAHeldWait := by
  unfold Obligations.OnlyReleaseOrResetEndsAHeldWait
  intro s t r held e
  rcases (step_hpe r e).phase_of_held held with same | ⟨n, p, z⟩ | ⟨n, z⟩
  · exact .inl same
  · exact .inr ⟨by rw [z]; rfl, .inl ⟨n, p⟩⟩
  · exact .inr ⟨by rw [z]; rfl, .inr n⟩

end Sys2Proof.Machine

namespace Sys2Proof.Machine

/-! ### What a receive reads and writes -/

/-- A receive looks at DAV in R2 and R6 and at DIN in R4 and R7, and at no other port (41_receive.md R132). -/
theorem Phase.unread_of_isReceive {p : Phase} {c : PortChange} (receive : p.isReceive = true)
    (r2 : p = .r2WaitDav → ∀ b, c ≠ .dav b) (r6 : p = .r6WaitDavLow → ∀ b, c ≠ .dav b)
    (r4 : p = .r4Sample1 → ∀ v, c ≠ .din v) (r7 : p = .r7Sample2 → ∀ v, c ≠ .din v) : p.reads c = false := by
  cases p with
  | r2WaitDav => cases c with | dav b => exact absurd rfl (r2 rfl b) | _ => rfl
  | r6WaitDavLow => cases c with | dav b => exact absurd rfl (r6 rfl b) | _ => rfl
  | r4Sample1 => cases c with | din v => exact absurd rfl (r4 rfl v) | _ => rfl
  | r7Sample2 => cases c with | din v => exact absurd rfl (r7 rfl v) | _ => rfl
  | r1AssertRfd | r3DeassertRfd | r5AssertDac | r8DeassertDac => rfl
  | _ => cases receive

/-- No receive step writes out.DAV or DOUT (41_receive.md R132). -/
theorem EngineMove.dav_dout_kept_of_isReceive {h h' : Hpe} (m : EngineMove h h') (receive : h.phase.isReceive = true) :
    h'.out.dav = h.out.dav ∧ h'.out.dout = h.out.dout := by
  cases m with
  | s2 p | s3 p | s5 p | s6 p => rw [p] at receive; cases receive
  | _ => exact ⟨rfl, rfl⟩

/-- The host steps that bring every port but ATN to its level in `p`. -/
def InPorts.changesButAtn (p : InPorts) : List PortChange :=
  [.din p.din, .dsize p.dsize, .dav p.dav, .rfd p.rfd, .dac p.dac, .rst p.rst]

theorem InPorts.foldl_set_changesButAtn {p q : InPorts} (atn : p.atn = q.atn) :
    p.changesButAtn.foldl InPorts.set q = p := by
  cases p; cases atn; rfl

theorem Phase.a0_unread_changesButAtn (p : InPorts) : ∀ c ∈ p.changesButAtn, Phase.a0WaitAtn.reads c = false := by
  simp [InPorts.changesButAtn, Phase.reads]

/-- In A0 the engine looks at ATN only (41_receive.md R132). -/
theorem engineStep_of_a0 {h : Hpe} {p : InPorts} (a0 : h.phase = .a0WaitAtn) (atn : p.atn = h.inp.atn) :
    engineStep { h with inp := p } = (engineStep h).map fun h' => { h' with inp := p } := by
  have step := engineStep_of_unread_ports (h := h) p.changesButAtn (a0 ▸ Phase.a0_unread_changesButAtn p)
  rwa [InPorts.foldl_set_changesButAtn atn] at step

/-- Settles O23: every port a clause speaks of is one that the phase does not read. -/
theorem receiveReadsOnlyDavAndDin : Obligations.ReceiveReadsOnlyDavAndDin := by
  unfold Obligations.ReceiveReadsOnlyDavAndDin
  refine fun h => ⟨fun receive => ⟨fun dsize rfd dac atn rst => ?_, fun nr2 nr6 dav => ?_, fun nr4 nr7 din => ?_,
    fun h' e => (engineStep_cases e).dav_dout_kept_of_isReceive receive⟩, fun a0 p atn => engineStep_of_a0 a0 atn⟩
  · exact engineStep_of_unread_ports [.dsize dsize, .rfd rfd, .dac dac, .atn atn, .rst rst]
      (by simp [Phase.unread_of_isReceive receive])
  · exact engineStep_of_unread_ports [.dav dav] (by simp [Phase.unread_of_isReceive receive, nr2, nr6])
  · exact engineStep_of_unread_ports [.din din] (by simp [Phase.unread_of_isReceive receive, nr4, nr7])

end Sys2Proof.Machine

namespace Sys2Proof.Machine

/-! ### The control operations -/

/-- A CMD write of an operation's byte runs that operation (60_exceptions.md R160). -/
theorem cmdWrite_encode (i : Instr) (s : State) : cmdWrite (encode i) s = exec i s := by
  rw [cmdWrite, decode_encode]

/-- ENABLE during a transfer is rejected as BUSY (42_control.md R142). -/
theorem exec_enable_of_busy {s : State} (b : s.hpe.busy = true) : exec .enable s = .next (s.reject .busy) := by
  simp [exec, execEnable, b]

/-- ENABLE outside a transfer sets the idle levels and drives the pins (42_control.md R142). -/
theorem exec_enable_of_not_busy {s : State} (b : s.hpe.busy = false) :
    exec .enable s = .next (s.withHpe ((s.hpe.clearStatus.idleLatches.setOe true).goTo .idle)) := by
  simp [exec, execEnable, b]

/-- Settles O11: NOP by its definition, and its byte by the decoding. -/
theorem nopChangesNothing : Obligations.NopChangesNothing := by
  unfold Obligations.NopChangesNothing
  exact fun s => ⟨rfl, cmdWrite_encode .nop s⟩

/-- Settles O12: the phases other than RELEASED and IDLE are those in which a transfer is in progress. -/
theorem enableDrivesIdleLevels : Obligations.EnableDrivesIdleLevels := by
  unfold Obligations.EnableDrivesIdleLevels
  refine fun s => ⟨cmdWrite_encode .enable s, fun notReleased notIdle => ?_, fun rest => ?_⟩
  · have busy : s.hpe.busy = true := by simp [Hpe.busy_eq_decide, notReleased, notIdle]
    exact exec_enable_of_busy busy
  · exact exec_enable_of_not_busy (Hpe.busy_eq_false.2 rest)

/-- Settles O13: RELEASE has one way in every phase, and its ABT is the BUSY of the old phase. -/
theorem releaseStopsAnyOperation : Obligations.ReleaseStopsAnyOperation := by
  unfold Obligations.ReleaseStopsAnyOperation
  refine fun s => ⟨cmdWrite_encode .release s, ?_⟩
  rw [← Hpe.busy_eq_decide]
  rfl

end Sys2Proof.Machine

namespace Sys2Proof.Machine

/-! ### The rejection a CMD write records -/

/-- `r` is a next state with the same surroundings and with `c` in REJC, and where `c` is a rejection it changes
nothing but REJC (60_exceptions.md R161). -/
def Records (s : State) (r : Result) (c : Rejection) : Prop :=
  ∃ h, r = .next (s.withHpe h) ∧ h.rejc = c ∧ (c ≠ .none → h = s.hpe.reject c)

theorem records_reject (s : State) (c : Rejection) : Records s (.next (s.reject c)) c :=
  ⟨_, rfl, rfl, fun _ => rfl⟩

theorem records_none_of_accepted (s : State) {h : Hpe} (cleared : h.rejc = .none) :
    Records s (.next (s.withHpe h)) .none :=
  ⟨h, rfl, cleared, fun rejected => absurd rfl rejected⟩

/-- REJC after a SEND, RECV or AWAITCMD: RELEASED before BUSY (60_exceptions.md R162). -/
def Hpe.transferRejection (h : Hpe) : Rejection :=
  if h.phase = .released then .released else if h.busy then .busy else .none

/-- REJC after the CMD write of a legal byte. -/
def recordedByExec (i : Instr) (h : Hpe) : Rejection :=
  match i with
  | .nop => h.rejc
  | .send1 | .send2 | .recv1 | .recv2 | .awaitcmd => h.transferRejection
  | .enable => if h.busy then .busy else .none
  | .release => .none

/-- REJC after the CMD write of any byte: ILLEGAL before the other causes (60_exceptions.md R162). -/
def recordedByWrite (v : Byte) (h : Hpe) : Rejection :=
  match decode v with
  | .error _ => .illegal
  | .ok i => recordedByExec i h

theorem Hpe.transferRejection_of_released {h : Hpe} (p : h.phase = .released) : h.transferRejection = .released :=
  if_pos p

theorem Hpe.transferRejection_of_busy {h : Hpe} (b : h.busy = true) : h.transferRejection = .busy := by
  have notReleased : h.phase ≠ .released := fun p => by rw [Hpe.not_busy_of_released p] at b; cases b
  rw [Hpe.transferRejection, if_neg notReleased, if_pos b]

theorem Hpe.transferRejection_of_idle {h : Hpe} (p : h.phase = .idle) : h.transferRejection = .none := by
  simp [Hpe.transferRejection, p, Hpe.not_busy_of_idle p]

/-- A transfer operation records its rejection when its accept leaves the cleared REJC alone. -/
theorem startTransfer_records (f : Hpe → Hpe) (s : State) (keeps : ∀ h, (f h).rejc = h.rejc) :
    Records s (startTransfer f s) s.hpe.transferRejection := by
  rcases startTransfer_cases f s with ⟨p, e⟩ | ⟨b, e⟩ | ⟨p, e⟩
  · rw [e, Hpe.transferRejection_of_released p]
    exact records_reject s .released
  · rw [e, Hpe.transferRejection_of_busy b]
    exact records_reject s .busy
  · rw [e, Hpe.transferRejection_of_idle p]
    exact records_none_of_accepted s (keeps _)

theorem exec_records (i : Instr) (s : State) : Records s (exec i s) (recordedByExec i s.hpe) := by
  cases i with
  | nop => exact records_reject s s.hpe.rejc
  | enable =>
    rcases execEnable_cases s with ⟨b, e⟩ | ⟨b, e⟩ <;> rw [exec, e, recordedByExec, b]
    · exact records_reject s .busy
    · exact records_none_of_accepted s rfl
  | release => exact records_none_of_accepted s rfl
  | send1 | send2 => exact startTransfer_records (Hpe.acceptSend _) s fun _ => rfl
  | recv1 | recv2 => exact startTransfer_records (Hpe.acceptRecv _) s fun _ => rfl
  | awaitcmd => exact startTransfer_records Hpe.acceptAwait s fun _ => rfl

theorem cmdWrite_records (v : Byte) (s : State) : Records s (cmdWrite v s) (recordedByWrite v s.hpe) := by
  rcases cmdWrite_cases v s with ⟨i, d, e⟩ | ⟨x, d, e⟩ <;> rw [e, recordedByWrite, d]
  · exact exec_records i s
  · exact records_reject s .illegal

theorem recordedByWrite_of_illegal {v : Byte} (h : Hpe) (illegal : v ∉ Instr.rows.map encode) :
    recordedByWrite v h = .illegal := by
  obtain ⟨x, d⟩ := (decode_eq_error_iff v).2 ((not_mem_map_encode_iff v).1 illegal)
  rw [recordedByWrite, d]

theorem recordedByWrite_of_transfer {v : Byte} (h : Hpe) (transfer : v ∈ [0x01#8, 0x09#8, 0x02#8, 0x0A#8, 0x03#8]) :
    recordedByWrite v h = h.transferRejection := by
  simp only [List.mem_cons, List.not_mem_nil, or_false] at transfer
  rcases transfer with rfl | rfl | rfl | rfl | rfl <;> rfl

theorem recordedByWrite_enable (h : Hpe) : recordedByWrite 0x06#8 h = if h.busy then .busy else .none := rfl

/-- During a transfer ENABLE is rejected like the operations that start one (60_exceptions.md R161). -/
theorem recordedByWrite_of_busy {v : Byte} {h : Hpe} (b : h.busy = true)
    (op : v ∈ [0x01#8, 0x09#8, 0x02#8, 0x0A#8, 0x03#8, 0x06#8]) : recordedByWrite v h = .busy := by
  rcases (List.mem_append (s := [0x01#8, 0x09#8, 0x02#8, 0x0A#8, 0x03#8])).1 op with transfer | enable
  · rw [recordedByWrite_of_transfer h transfer, Hpe.transferRejection_of_busy b]
  · rw [List.mem_singleton.1 enable, recordedByWrite_enable, if_pos b]

/-- Settles O14: REJC after the write is `recordedByWrite`, and each clause asks for its value in one case. -/
theorem cmdWriteRecordsOneRejection : Obligations.CmdWriteRecordsOneRejection := by
  unfold Obligations.CmdWriteRecordsOneRejection
  refine ⟨fun h p => Hpe.not_busy_of_released p, fun s v => ?_⟩
  obtain ⟨h, e, recorded, rejected⟩ := cmdWrite_records v s
  refine ⟨s.withHpe h, e, rfl, ?_⟩
  rw [State.withHpe_hpe, recorded]
  refine ⟨fun illegal => ?_, fun transfer p => ?_, fun op b => ?_, fun transfer p => ?_, fun enable b => ?_,
    fun release => ?_, fun nop => ?_, fun _ => rejected⟩
  · rw [recordedByWrite_of_illegal s.hpe illegal]; rfl
  · rw [recordedByWrite_of_transfer s.hpe transfer, Hpe.transferRejection_of_released p]; rfl
  · rw [recordedByWrite_of_busy b op]; rfl
  · rw [recordedByWrite_of_transfer s.hpe transfer, Hpe.transferRejection_of_idle p]; rfl
  · rw [enable, recordedByWrite_enable, b]; rfl
  · rw [release]; rfl
  · have same : cmdWrite v s = .next s := nop ▸ cmdWrite_encode .nop s
    exact Host.Outcome.next.inj (e.symm.trans same)

/-! ### Host steps -/

/-- Settles O49: each clause is the host's turn for one port. -/
theorem hostStepSetsOnePort : Obligations.HostStepSetsOnePort := by
  unfold Obligations.HostStepSetsOnePort
  exact fun s r => ⟨fun v => step_of_host r, fun v => step_of_host r, fun b => step_of_host r,
    fun b => step_of_host r, fun b => step_of_host r, fun b => step_of_host r, fun b => step_of_host r⟩

end Sys2Proof.Machine

namespace Sys2Proof.Machine

/-! ### The reset-sense and data-size lines -/

/-- The HPE with other levels on in.RST and in.DSIZE (10_state.md R23, R24). -/
def Hpe.withRstDsize (h : Hpe) (b : Bool) (d : BitVec 2) : Hpe := { h with inp := { h.inp with rst := b, dsize := d } }

/-- The machine with other levels on in.RST and in.DSIZE. -/
def State.withRstDsize (s : State) (b : Bool) (d : BitVec 2) : State := s.withHpe (s.hpe.withRstDsize b d)

/-- From `s` the action goes the same way with in.RST = `b` and in.DSIZE = `d`, and leaves these as they are. -/
def Ignores (b : Bool) (d : BitVec 2) (f : State → Result) (s : State) : Prop :=
  ∃ t, f s = .next t ∧ f (s.withRstDsize b d) = .next (t.withRstDsize b d)

section RstDsize

variable (b : Bool) (d : BitVec 2)

@[simp] theorem Hpe.withRstDsize_phase (h : Hpe) : (h.withRstDsize b d).phase = h.phase := rfl
@[simp] theorem Hpe.withRstDsize_busy (h : Hpe) : (h.withRstDsize b d).busy = h.busy := rfl
@[simp] theorem State.withRstDsize_hpe (s : State) : (s.withRstDsize b d).hpe = s.hpe.withRstDsize b d := rfl
@[simp] theorem State.withRstDsize_env (s : State) : (s.withRstDsize b d).env = s.env := rfl

/-- Reset keeps the ports and looks at none of them. -/
theorem State.tick_holdReset_withRstDsize (s : State) :
    (s.withRstDsize b d).tick.holdReset = s.tick.holdReset.withRstDsize b d := by
  cases r : s.env.rst with
  | false => rw [State.holdReset_tick s r, State.holdReset_tick (s.withRstDsize b d) r]; rfl
  | true => rw [State.holdReset_of_asserted s.tick r, State.holdReset_of_asserted (s.withRstDsize b d).tick r]; rfl

/-- An action on the HPE goes the same way from `s` when what it makes of the HPE differs in the two lines only. -/
theorem next_withHpe_withRstDsize (s : State) {h h' : Hpe} (e : h' = h.withRstDsize b d) :
    (.next ((s.withRstDsize b d).withHpe h') : Result) = .next ((s.withHpe h).withRstDsize b d) := by
  rw [e]; rfl

/-! The engine and the host. -/

theorem Phase.reads_rst (p : Phase) : p.reads (.rst b) = false := by cases p <;> rfl

theorem Phase.reads_dsize (p : Phase) : p.reads (.dsize d) = false := by cases p <;> rfl

theorem engineStep_withRstDsize (h : Hpe) :
    engineStep (h.withRstDsize b d) = (engineStep h).map (·.withRstDsize b d) := by
  calc engineStep ((h.setPort (.rst b)).setPort (.dsize d))
    _ = (engineStep (h.setPort (.rst b))).map (·.setPort (.dsize d)) := engineStep_setPort (Phase.reads_dsize d _)
    _ = (engineStep h).map (·.withRstDsize b d) := by
      rw [engineStep_setPort (Phase.reads_rst b _), Option.map_map]; rfl

theorem engineTurn_withRstDsize (h : Hpe) : engineTurn (h.withRstDsize b d) = (engineTurn h).withRstDsize b d := by
  rw [engineTurn, engineTurn, engineStep_withRstDsize]
  cases engineStep h <;> rfl

theorem sampleRaceTurn_withRstDsize (v free : Byte) (h : Hpe) :
    sampleRaceTurn v free (h.withRstDsize b d) = (sampleRaceTurn v free h).withRstDsize b d := by
  unfold sampleRaceTurn
  rw [Hpe.withRstDsize_phase]
  cases h.phase <;> rfl

theorem Hpe.setPort_withRstDsize {c : PortChange} (nrst : ∀ x, c ≠ .rst x) (ndsize : ∀ x, c ≠ .dsize x) (h : Hpe) :
    (h.withRstDsize b d).setPort c = (h.setPort c).withRstDsize b d := by
  cases c with
  | rst x => exact absurd rfl (nrst x)
  | dsize x => exact absurd rfl (ndsize x)
  | _ => rfl

/-! The controller. -/

/-- Of all the registers only LINES_IN shows in.RST and in.DSIZE (10_state.md R39, 20_memory.md R61). -/
theorem regRead_withRstDsize {a : RegAddr} (na : a ≠ 0x6) (h : Hpe) :
    regRead a (h.withRstDsize b d) = regRead a h := by
  unfold regRead
  split
  case h_7 e => exact absurd (BitVec.eq_of_toNat_eq e) na
  all_goals rfl

theorem startTransfer_ignores {f : Hpe → Hpe} (keeps : ∀ h, f (h.withRstDsize b d) = (f h).withRstDsize b d)
    (s : State) : Ignores b d (startTransfer f) s := by
  unfold Ignores startTransfer
  rw [State.withRstDsize_hpe, Hpe.withRstDsize_phase]
  split_ifs
  · exact ⟨_, rfl, rfl⟩
  · exact ⟨_, rfl, rfl⟩
  · exact ⟨_, rfl, next_withHpe_withRstDsize b d s (keeps s.hpe.clearStatus)⟩

theorem execEnable_ignores (s : State) : Ignores b d execEnable s := by
  unfold Ignores execEnable
  rw [State.withRstDsize_hpe, Hpe.withRstDsize_busy]
  split_ifs <;> exact ⟨_, rfl, rfl⟩

theorem exec_ignores (i : Instr) (s : State) : Ignores b d (exec i) s := by
  cases i with
  | nop | release => exact ⟨_, rfl, rfl⟩
  | enable => exact execEnable_ignores b d s
  | send1 | send2 | recv1 | recv2 | awaitcmd => exact startTransfer_ignores b d (fun _ => rfl) s

theorem cmdWrite_ignores (v : Byte) (s : State) : Ignores b d (cmdWrite v) s := by
  unfold Ignores cmdWrite
  cases decode v with
  | ok i => exact exec_ignores b d i s
  | error => exact ⟨_, rfl, rfl⟩

theorem regWrite_ignores (a : RegAddr) (v : Byte) (s : State) : Ignores b d (regWrite a v) s := by
  unfold Ignores regWrite
  rw [State.withRstDsize_env]
  split_ifs
  · exact ⟨_, rfl, rfl⟩
  · split
    · exact cmdWrite_ignores b d v s
    all_goals exact ⟨_, rfl, rfl⟩

theorem controllerTurn_ignores {s : State} (nrd : ∀ x ls, s.env.program ≠ .rd 0x6 x :: ls)
    (npoll : ∀ m x ls, s.env.program ≠ .poll 0x6 m x :: ls) : Ignores b d controllerTurn s := by
  unfold Ignores controllerTurn
  rw [State.withRstDsize_env, State.withRstDsize_hpe]
  split
  · exact ⟨_, rfl, rfl⟩
  · exact regWrite_ignores b d _ _ (s.withProgram _)
  · next a x ls p =>
    have other : a ≠ 0x6 := fun e => nrd x ls (e ▸ p)
    rw [regRead_withRstDsize b d other]
    exact ⟨_, rfl, rfl⟩
  · next a m x ls p =>
    have other : a ≠ 0x6 := fun e => npoll m x ls (e ▸ p)
    rw [regRead_withRstDsize b d other]
    split_ifs <;> exact ⟨_, rfl, rfl⟩

/-- Every agent's turn ignores the two lines, but the host's change of one and the controller's read of LINES_IN. -/
theorem turnOf_ignores {n : Turn} {s : State} (nrst : ∀ x, n ≠ .host (.rst x)) (ndsize : ∀ x, n ≠ .host (.dsize x))
    (nrd : ∀ x ls, s.env.program ≠ .rd 0x6 x :: ls) (npoll : ∀ m x ls, s.env.program ≠ .poll 0x6 m x :: ls) :
    Ignores b d (turnOf n) s := by
  cases n with
  | engine => exact ⟨_, rfl, next_withHpe_withRstDsize b d s (engineTurn_withRstDsize b d s.hpe)⟩
  | host c =>
    have other := Hpe.setPort_withRstDsize b d (fun x e => nrst x (e ▸ rfl)) (fun x e => ndsize x (e ▸ rfl)) s.hpe
    exact ⟨_, rfl, next_withHpe_withRstDsize b d s other⟩
  | controller => exact controllerTurn_ignores b d nrd npoll
  | rst level => cases level <;> exact ⟨_, rfl, rfl⟩
  | sampleRace v =>
    exact ⟨_, rfl, next_withHpe_withRstDsize b d s (sampleRaceTurn_withRstDsize b d v _ s.hpe)⟩

end RstDsize

/-- Settles O35: a step is one agent's turn, from a state that differs in the two lines only. -/
theorem resetSenseAndDataSizeHaveNoEffect : Obligations.ResetSenseAndDataSizeHaveNoEffect := by
  unfold Obligations.ResetSenseAndDataSizeHaveNoEffect
  intro s b d nrst ndsize nrd npoll
  have turn : Ignores b d (turnOf s.nextTurn) s.tick.holdReset :=
    turnOf_ignores b d nrst ndsize (by simpa using nrd) (by simpa using npoll)
  obtain ⟨t, e, e'⟩ := turn
  refine ⟨t, e, ?_⟩
  rw [← State.tick_holdReset_withRstDsize] at e'
  exact e'

end Sys2Proof.Machine

namespace Sys2Proof.Machine

/-! ### What a step does to the surroundings -/

/-- Every turn answers and leaves the schedule and the free index alone; only a turn of `rst` changes its level. -/
theorem turnOf_answers (n : Turn) (s : State) :
    ∃ t, turnOf n s = .next t ∧ t.env.schedule = s.env.schedule ∧ t.env.freeIndex = s.env.freeIndex ∧
      (t.env.rst = s.env.rst ∨ n = .rst t.env.rst) := by
  cases n with
  | engine | host | sampleRace => exact ⟨_, rfl, rfl, rfl, .inl rfl⟩
  | rst level => exact ⟨_, rfl, rfl, rfl, .inr rfl⟩
  | controller =>
    obtain ⟨t, e, r, sched, free⟩ := controllerTurn_answers s
    exact ⟨t, e, sched, free, .inl r⟩

/-- Every state has a next one; the step takes one turn, and only a turn of `rst` changes its level. -/
theorem step_answers (s : State) :
    ∃ t, step s = .next t ∧ t.env.schedule = s.env.schedule.tail ∧ t.env.freeIndex = s.env.freeIndex + 1 ∧
      (t.env.rst = s.env.rst ∨ s.nextTurn = .rst t.env.rst) := by
  have turn := turnOf_answers s.nextTurn s.tick.holdReset
  rwa [State.holdReset_env] at turn

/-- Settles O7: the turn of each agent answers. -/
theorem everyStepAnswersANextState : Obligations.EveryStepAnswersANextState := by
  unfold Obligations.EveryStepAnswersANextState
  intro s
  obtain ⟨t, e, sched, free, -⟩ := step_answers s
  exact ⟨t, e, sched, free⟩

theorem step_rst_cases {s t : State} (e : step s = .next t) :
    t.env.rst = s.env.rst ∨ s.nextTurn = .rst t.env.rst := by
  obtain ⟨t', e', -, -, r⟩ := step_answers s
  cases e.symm.trans e'
  exact r

theorem step_schedule {s t : State} (e : step s = .next t) : t.env.schedule = s.env.schedule.tail := by
  obtain ⟨t', e', sched, -⟩ := step_answers s
  cases e.symm.trans e'
  exact sched

/-! ### A step while `rst` is asserted -/

/-- The inbound ports after a turn: the host's alone changes one (60_exceptions.md R170; log 7, log 9). -/
def InPorts.afterTurn (p : InPorts) : Turn → InPorts
  | .host c => p.set c
  | .sampleRace v => { p with din := v }
  | .engine | .controller | .rst _ => p

/-- From the reset HPE with `rst` asserted the controller's turn leaves the HPE as it is. -/
theorem controllerTurn_hpe_of_asserted {s t : State} (r : s.env.rst = true) (e : controllerTurn s = .next t) :
    t.hpe = s.hpe := by
  rcases controllerTurn_cases s with ⟨a, v, ls, -, z⟩ | ⟨-, t', z, same, -⟩
  · rw [z, regWrite_of_asserted a v (s.withProgram ls) r] at e
    cases e; rfl
  · rw [z] at e
    cases e; exact same

/-- While `rst` is asserted every step leaves the reset HPE, with the ports live (70_reset_and_hazards.md R190). -/
theorem step_hpe_of_asserted {s t : State} (r : s.env.rst = true) (e : step s = .next t) :
    t.hpe = { Hpe.reset with inp := s.hpe.inp.afterTurn s.nextTurn } := by
  have start : s.tick.holdReset = s.tick.withHpe s.hpe.resetStored := State.holdReset_of_asserted s.tick r
  rcases step_cases e with ⟨n, z⟩ | ⟨c, n, z⟩ | ⟨n, e⟩ | ⟨b, n, z⟩ | ⟨v, n, z⟩ <;> rw [start] at * <;> rw [n]
  · rw [z]; rfl
  · rw [z]; rfl
  · rw [controllerTurn_hpe_of_asserted (s := s.tick.withHpe s.hpe.resetStored) r e]; rfl
  · rw [z]; cases b <;> rfl
  · rw [z]; rfl

/-- A controller read while `rst` is asserted binds the byte of the reset HPE (70_reset_and_hazards.md R190). -/
theorem step_of_rd_of_asserted {s : State} {a : RegAddr} {x : Nat} {ls : List ProgLine} (r : s.env.rst = true)
    (n : s.nextTurn = .controller) (p : s.env.program = .rd a x :: ls) :
    step s = .next (((s.tick.withHpe s.hpe.resetStored).withProgram ls).bindName x (regRead a s.hpe.resetStored)) := by
  rw [step_eq, n, State.holdReset_of_asserted s.tick r]
  exact controllerTurn_of_rd (s := s.tick.withHpe s.hpe.resetStored) p

/-- Settles O52: the assertion itself, and then each step under it by its turn. -/
theorem resetHoldsEveryStoredElement : Obligations.ResetHoldsEveryStoredElement := by
  unfold Obligations.ResetHoldsEveryStoredElement
  refine ⟨fun s n => step_of_rst_asserted n, fun s t r e => ⟨?_, ?_, fun a x ls n p => ?_⟩⟩
  · rw [step_hpe_of_asserted r e]
    cases s.nextTurn <;> rfl
  · rcases step_rst_cases e with same | n
    · exact .inl (same.trans r)
    · cases level : t.env.rst with
      | true => exact .inl rfl
      | false => exact .inr (level ▸ n)
  · cases e.symm.trans (step_of_rd_of_asserted r n p)
    rfl

/-! ### The inbound ports -/

/-- Of all the agents only the host changes a port (10_state.md R20, 20_memory.md R68). -/
theorem HpeMove.inp_cases {s : State} {h : Hpe} (m : HpeMove s h) :
    h.inp = s.hpe.inp ∨ (∃ c, s.nextTurn = .host c) ∨ (∃ v, s.nextTurn = .sampleRace v) := by
  cases m with
  | engine _ m =>
    obtain ⟨inp, -⟩ := m.frame
    exact .inl inp
  | port n => exact .inr (.inl ⟨_, n⟩)
  | race1 n | race2 n | race0 n => exact .inr (.inr ⟨_, n⟩)
  | _ => exact .inl rfl

theorem InPorts.afterTurn_cases (p : InPorts) (n : Turn) :
    p.afterTurn n = p ∨ (∃ c, n = .host c) ∨ (∃ v, n = .sampleRace v) := by
  cases n with
  | host c => exact .inr (.inl ⟨c, rfl⟩)
  | sampleRace v => exact .inr (.inr ⟨v, rfl⟩)
  | engine | controller | rst => exact .inl rfl

theorem step_inp_cases {s t : State} (e : step s = .next t) :
    t.hpe.inp = s.hpe.inp ∨ (∃ c, s.nextTurn = .host c) ∨ (∃ v, s.nextTurn = .sampleRace v) := by
  cases r : s.env.rst with
  | false => exact (step_hpe r e).inp_cases
  | true =>
    rw [step_hpe_of_asserted r e]
    exact s.hpe.inp.afterTurn_cases s.nextTurn

/-- Settles O29, by the inversion of a step, and under an asserted `rst` by what it leaves of the ports. -/
theorem onlyTheHostChangesAPort : Obligations.OnlyTheHostChangesAPort := by
  unfold Obligations.OnlyTheHostChangesAPort
  exact fun s t e changed => (step_inp_cases e).resolve_left changed

/-! ### The invariant -/

/-- The invariant speaks of the outputs, the phase, W and the status flags only. -/
theorem Hpe.Inv.congr {g h : Hpe} (i : g.Inv) (out : h.out = g.out) (oe : h.oe = g.oe) (phase : h.phase = g.phase)
    (w : h.w = g.w) (done : h.done = g.done) (abt : h.abt = g.abt) (rejc : h.rejc = g.rejc) : h.Inv := by
  constructor <;> simp only [out, oe, phase, w, done, abt, rejc]
  exacts [i.latches, i.released_iff, i.s5_two, i.r7_two, i.a0_one, i.done_idle, i.abt_released, i.rejc_released]

theorem Hpe.Inv.setPort {h : Hpe} (i : h.Inv) (c : PortChange) : (h.setPort c).Inv :=
  i.congr rfl rfl rfl rfl rfl rfl rfl

/-- Reset leaves RELEASED with idle latches and cleared flags. -/
theorem Hpe.resetStored_inv (h : Hpe) : h.resetStored.Inv := by
  constructor <;> simp [Hpe.reset, Phase.latches]

/-- A recorded rejection keeps the invariant if RELEASED is recorded in RELEASED only. -/
theorem Hpe.Inv.reject {h : Hpe} (i : h.Inv) {c : Rejection} (cause : c = .released → h.phase = .released) :
    (h.reject c).Inv := by
  obtain ⟨latches, released, s5, r7, a0, done, abt, -⟩ := i
  exact ⟨latches, released, s5, r7, a0, done, abt, cause⟩

theorem Hpe.release_inv (h : Hpe) : h.release.Inv := by
  constructor <;> simp [Hpe.release, Phase.latches]

/-- ENABLE leaves IDLE with idle latches, driven pins and cleared flags. -/
theorem Hpe.enable_inv (h : Hpe) : ((h.clearStatus.idleLatches.setOe true).goTo .idle).Inv := by
  constructor <;> simp [Phase.latches]

/-- An accept in IDLE keeps the latches and OE, clears the status flags, and enters a transfer whose first phase has
idle latches. -/
theorem Hpe.Inv.accept {h g : Hpe} (i : h.Inv) (idle : h.phase = .idle) (out : g.out = h.out) (oe : g.oe = h.oe)
    (done : g.done = false) (abt : g.abt = false) (rejc : g.rejc = .none)
    (start : g.phase = .s1WaitRfd ∨ g.phase = .r1AssertRfd ∨ (g.phase = .a0WaitAtn ∧ g.w = false)) : g.Inv := by
  have latches := i.latches
  have driven := i.released_iff
  rw [idle] at latches driven
  constructor <;> rcases start with p | p | ⟨p, w⟩ <;> simp_all [Phase.latches]

/-- Byte 2 is driven or sampled with W = 1 only (40_send.md R107, 41_receive.md R130). -/
def Hpe.TwoByte (h : Hpe) : Prop := h.phase = .s5Drive2 ∨ h.phase = .r7Sample2 → h.w = true

theorem Hpe.Inv.twoByte {h : Hpe} (i : h.Inv) : h.TwoByte := Or.rec i.s5_two i.r7_two

section EngineMoves

variable {h h' : Hpe} (m : EngineMove h h')
include m

/-- Where the engine has a step, a transfer is in progress. -/
theorem EngineMove.busy : h.busy = true := by
  cases m <;> simp [Hpe.busy, Phase.busy, *]

theorem EngineMove.not_released : h'.phase ≠ .released := by
  cases m <;> simp [sampleByte1, sampleByte2]

/-- Each step writes the latch that makes the difference between its phase and the next (10_state.md R47). -/
theorem EngineMove.latches (i : (h.out.dav, h.out.rfd, h.out.dac) = h.phase.latches) :
    (h'.out.dav, h'.out.rfd, h'.out.dac) = h'.phase.latches := by
  cases m <;> simp_all [Phase.latches, sampleByte1, sampleByte2]

/-- S5 and R7 are entered with W = 1 only (40_send.md R106, 41_receive.md R129). -/
theorem EngineMove.twoByte : h'.TwoByte := by
  cases m <;> simp_all [Hpe.TwoByte, sampleByte1, sampleByte2]

theorem EngineMove.not_a0 : h'.phase ≠ .a0WaitAtn := by
  cases m <;> simp [sampleByte1, sampleByte2]

/-- DONE rises with the entry to IDLE (00_scope.md R10). -/
theorem EngineMove.done_cases :
    (h'.done = h.done ∧ h'.phase ≠ .idle) ∨ (h'.done = true ∧ h'.phase = .idle) := by
  cases m with
  | r8 | s7 => exact .inr ⟨rfl, rfl⟩
  | _ => exact .inl ⟨rfl, by simp [sampleByte1, sampleByte2]⟩

theorem EngineMove.inv (i : h.Inv) : h'.Inv := by
  obtain ⟨latches, released, -, -, -, done, abt, rejc⟩ := i
  obtain ⟨-, oe', -, -, -, -, -, abt', rejc'⟩ := m.frame
  have rest : h.phase ≠ .released ∧ h.phase ≠ .idle := by simpa [Hpe.busy_eq_decide] using m.busy
  obtain ⟨notReleased, notIdle⟩ := rest
  exact {
    latches := m.latches latches
    released_iff := by rw [oe', released]; exact iff_of_false notReleased m.not_released
    s5_two := fun p => m.twoByte (.inl p)
    r7_two := fun p => m.twoByte (.inr p)
    a0_one := fun p => absurd p m.not_a0
    done_idle := fun d => by
      rcases m.done_cases with ⟨same, -⟩ | ⟨-, idle⟩
      · exact absurd (done (same ▸ d)) notIdle
      · exact idle
    abt_released := fun a => absurd (abt (abt' ▸ a)) notReleased
    rejc_released := fun c => absurd (rejc (rejc' ▸ c)) notReleased }

end EngineMoves

/-! A racing sample is the engine's own sample between two changes of DIN: to the free byte and to the new one. -/

theorem sampleByte1_setPort_eq (free v : Byte) (h : Hpe) : (sampleByte1 free h).setPort (.din v) =
    (sampleByte1 (h.setPort (.din free)).inp.din (h.setPort (.din free))).setPort (.din v) := rfl

theorem sampleByte2_setPort_eq (free v : Byte) (h : Hpe) : (sampleByte2 free h).setPort (.din v) =
    (sampleByte2 (h.setPort (.din free)).inp.din (h.setPort (.din free))).setPort (.din v) := rfl

theorem HpeMove.inv {s : State} {h : Hpe} (m : HpeMove s h) (i : s.hpe.Inv) : h.Inv := by
  cases m with
  | stay => exact i
  | engine _ m => exact m.inv i
  | port => exact i.setPort _
  | tx0 | tx1 => exact i.congr rfl rfl rfl rfl rfl rfl rfl
  | reject _ _ cause => exact i.reject cause
  | release => exact s.hpe.release_inv
  | enable => exact s.hpe.enable_inv
  | send1 _ _ idle | send2 _ _ idle => exact i.accept idle rfl rfl rfl rfl rfl (.inl rfl)
  | recv1 _ _ idle | recv2 _ _ idle => exact i.accept idle rfl rfl rfl rfl rfl (.inr (.inl rfl))
  | awaitcmd _ _ idle => exact i.accept idle rfl rfl rfl rfl rfl (.inr (.inr ⟨rfl, rfl⟩))
  | reset => exact s.hpe.resetStored_inv
  | race1 _ p =>
    rw [sampleByte1_setPort_eq]
    exact ((EngineMove.r4 (h := s.hpe.setPort _) p).inv (i.setPort _)).setPort _
  | race2 _ p =>
    rw [sampleByte2_setPort_eq]
    exact ((EngineMove.r7 (h := s.hpe.setPort _) p).inv (i.setPort _)).setPort _
  | race0 => exact i.setPort _

/-- Settles O24: with `rst` released by the inversion of a step, and under `rst` by the reset values. -/
theorem everyStepKeepsTheInvariant : Obligations.EveryStepKeepsTheInvariant := by
  unfold Obligations.EveryStepKeepsTheInvariant
  intro s t i e
  cases r : s.env.rst with
  | true =>
    have stored : t.hpe = t.hpe.resetStored := by rw [step_hpe_of_asserted r e]; rfl
    exact ⟨stored ▸ t.hpe.resetStored_inv, fun _ => stored⟩
  | false =>
    refine ⟨(step_hpe r e).inv i.hpe, fun asserted => ?_⟩
    have n : s.nextTurn = .rst true := by simpa [r, asserted] using step_rst_cases e
    cases e.symm.trans (step_of_rst_asserted n)
    rfl

/-- Settles O25: the reset HPE is its own reset. -/
theorem resetMeetsTheInvariant : Obligations.ResetMeetsTheInvariant := by
  unfold Obligations.ResetMeetsTheInvariant
  exact ⟨Hpe.reset.resetStored_inv, fun _ => rfl⟩

/-! ### Completion -/

/-- The ways in which a step ends a transfer in IDLE: the engine's step of S7 or R8 (40_send.md R109,
41_receive.md R131). -/
theorem HpeMove.completion_cases {s : State} {h : Hpe} (m : HpeMove s h) (busy : s.hpe.busy = true)
    (idle : h.phase = .idle) : s.nextTurn = .engine ∧
      ((s.hpe.phase = .s7WaitDacLow ∧ s.hpe.inp.dac = false ∧ h = s.hpe.complete) ∨
       (s.hpe.phase = .r8DeassertDac ∧ h = (s.hpe.setDac false).complete)) := by
  cases m with
  | engine n m =>
    refine ⟨n, ?_⟩
    cases m with
    | s7 p c => exact .inl ⟨p, c, rfl⟩
    | r8 p => exact .inr ⟨p, rfl⟩
    | _ => cases idle
  | stay | port | tx0 | tx1 | reject | race0 => rw [Hpe.not_busy_of_idle (h := s.hpe) idle] at busy; cases busy
  | enable _ _ rest => rw [rest] at busy; cases busy
  | _ => cases idle

/-- A step out of a transfer happens with `rst` released, from a state that meets the invariant. -/
theorem State.Inv.released_of_busy {s : State} (i : s.Inv) (busy : s.hpe.busy = true) : s.env.rst = false := by
  cases r : s.env.rst with
  | false => rfl
  | true => rw [i.rst r] at busy; cases busy

/-- Settles O26: the step is that of S7 or R8, and the latches are those of IDLE by the invariant. -/
theorem completionLeavesIdleLines : Obligations.CompletionLeavesIdleLines := by
  unfold Obligations.CompletionLeavesIdleLines
  intro s t i busy e idle
  have m := step_hpe (i.released_of_busy busy) e
  have latches := (m.inv i.hpe).latches
  rw [idle] at latches
  obtain ⟨dav, rfd, dac⟩ : t.hpe.out.dav = false ∧ t.hpe.out.rfd = false ∧ t.hpe.out.dac = false := by
    simpa [Phase.latches] using latches
  obtain ⟨-, ⟨-, low, z⟩ | ⟨p, z⟩⟩ := m.completion_cases busy idle
  · exact ⟨by rw [z]; rfl, dav, rfd, dac, fun _ => by rw [z]; exact low⟩
  · exact ⟨by rw [z]; rfl, dav, rfd, dac, fun send => by rw [p] at send; cases send⟩

end Sys2Proof.Machine

namespace Sys2Proof.Machine

/-! ### A transfer step by step -/

/-- The HPE with other values where the engine never writes and no event looks: the ports, TX0, TX1 and REJC. -/
def Hpe.withBystanders (h : Hpe) (p : InPorts) (tx0 tx1 : Byte) (c : Rejection) : Hpe :=
  { h with inp := p, tx0 := tx0, tx1 := tx1, rejc := c }

/-- The HPE with other inbound ports. -/
def Hpe.withPorts (h : Hpe) (p : InPorts) : Hpe := { h with inp := p }

/-- What a step can do to a transfer in progress: let it be, take its next step (on ports that a racing host may
change before and after), or stop it. -/
theorem HpeMove.transfer_cases {s : State} {h : Hpe} (m : HpeMove s h) (busy : s.hpe.busy = true) :
    (∃ p a b c, h = s.hpe.withBystanders p a b c) ∨
    ((s.nextTurn = .engine ∨ ∃ v, s.nextTurn = .sampleRace v) ∧
      ∃ p q g, EngineMove (s.hpe.withPorts p) g ∧ h = g.withPorts q) ∨
    h.phase = .released := by
  cases m with
  | stay | port | tx0 | tx1 | reject | race0 => exact .inl ⟨_, _, _, _, rfl⟩
  | engine n m => exact .inr (.inl ⟨.inl n, s.hpe.inp, h.inp, h, m, rfl⟩)
  | race1 n p =>
    exact .inr (.inl ⟨.inr ⟨_, n⟩, s.hpe.inp.set (.din (Config.tornSample (s.env.freeIndex + 1))), _, _, .r4 p, rfl⟩)
  | race2 n p =>
    exact .inr (.inl ⟨.inr ⟨_, n⟩, s.hpe.inp.set (.din (Config.tornSample (s.env.freeIndex + 1))), _, _, .r7 p, rfl⟩)
  | release | reset => exact .inr (.inr rfl)
  | enable _ _ rest => rw [rest] at busy; cases busy
  | send1 _ _ idle | send2 _ _ idle | recv1 _ _ idle | recv2 _ _ idle | awaitcmd _ _ idle =>
    rw [Hpe.not_busy_of_idle idle] at busy; cases busy

/-- The byte that an event puts on DOUT. -/
def TransferEvent.onDout : TransferEvent → Option Byte
  | .dout v => some v
  | .dav _ | .rfd _ | .dac _ | .sample1 _ | .sample2 _ => none

/-- The byte that an event puts into RX1. -/
def TransferEvent.onRx1 : TransferEvent → Option Byte
  | .sample2 v => some v
  | .dout _ | .dav _ | .rfd _ | .dac _ | .sample1 _ => none

/-- What a field that held `v` holds after the events. -/
def fieldAfter (on : TransferEvent → Option Byte) (v : Byte) (es : List TransferEvent) : Byte :=
  es.foldl (fun v e => (on e).getD v) v

/-- A transfer goes on from `g` to `h` with these events: its operands are kept, and DOUT and RX1 hold what the
events put there. -/
structure Hpe.GoesOn (g h : Hpe) (es : List TransferEvent) : Prop where
  w : h.w = g.w
  txl0 : h.txl0 = g.txl0
  txl1 : h.txl1 = g.txl1
  dout : h.out.dout = fieldAfter TransferEvent.onDout g.out.dout es
  rx1 : h.rx1 = fieldAfter TransferEvent.onRx1 g.rx1 es

theorem Hpe.GoesOn.trans {f g h : Hpe} {es fs : List TransferEvent} (a : f.GoesOn g es) (b : g.GoesOn h fs) :
    f.GoesOn h (es ++ fs) where
  w := b.w.trans a.w
  txl0 := b.txl0.trans a.txl0
  txl1 := b.txl1.trans a.txl1
  dout := by rw [b.dout, a.dout, fieldAfter, fieldAfter, fieldAfter, List.foldl_append]
  rx1 := by rw [b.rx1, a.rx1, fieldAfter, fieldAfter, fieldAfter, List.foldl_append]

/-- No event of a transfer is about a port. -/
theorem Hpe.GoesOn.of_withPorts {g h : Hpe} {p : InPorts} {es : List TransferEvent} (on : (g.withPorts p).GoesOn h es)
    (q : InPorts) : g.GoesOn (h.withPorts q) es :=
  ⟨on.w, on.txl0, on.txl1, on.dout, on.rx1⟩

/-- The events of the whole transfer, of a send or of a receive. -/
def Hpe.wholeEvents (send : Bool) (h : Hpe) : List TransferEvent := if send then h.sendEvents else h.receiveEvents

/-- With the events `es` the transfer of `g` has come to `h`: to its next phase with the events due before it, or to
its completion with those of the whole transfer. -/
def Hpe.Progress (g h : Hpe) (es : List TransferEvent) : Prop :=
  (h.busy = true ∧ h.phase.isSend = g.phase.isSend ∧ h.eventsBefore = g.eventsBefore ++ es) ∨
  (h.phase = .idle ∧ h.done = true ∧ g.eventsBefore ++ es = h.wholeEvents g.phase.isSend)

theorem EngineMove.goesOn {h h' : Hpe} (m : EngineMove h h') : h.GoesOn h' (engineEvents h h') := by
  obtain ⟨-, -, -, -, w, txl0, txl1, -⟩ := m.frame
  refine ⟨w, txl0, txl1, ?_, ?_⟩ <;> cases m <;>
    simp [engineEvents, fieldAfter, TransferEvent.onDout, TransferEvent.onRx1, sampleByte1, sampleByte2, *]

/-- The events due before a phase are those of the steps that lead to it (40_send.md R112, 41_receive.md R134). -/
theorem EngineMove.progress {h h' : Hpe} (m : EngineMove h h') (two : h.TwoByte) :
    h.Progress h' (engineEvents h h') := by
  cases m with
  | s7 p =>
    refine .inr ⟨rfl, rfl, ?_⟩
    cases w : h.w <;> simp [Hpe.eventsBefore, engineEvents, Hpe.wholeEvents, Hpe.sendEvents, Phase.isSend, p, w]
  | r8 p =>
    refine .inr ⟨rfl, rfl, ?_⟩
    cases w : h.w <;> simp [Hpe.eventsBefore, engineEvents, Hpe.wholeEvents, Hpe.receiveEvents, Phase.isSend, p, w]
  | s5 p | r7 p =>
    have w : h.w = true := two (by simp [p])
    exact .inl ⟨rfl, by simp [p, Phase.isSend, sampleByte2],
      by simp [Hpe.eventsBefore, engineEvents, sampleByte2, p, w]⟩
  | s6 p =>
    refine .inl ⟨rfl, by simp [p, Phase.isSend], ?_⟩
    cases w : h.w <;> simp [Hpe.eventsBefore, engineEvents, Hpe.sendEvents, p, w]
  | _ =>
    exact .inl ⟨rfl, by simp [Phase.isSend, sampleByte1, *],
      by simp [Hpe.eventsBefore, engineEvents, sampleByte1, *]⟩

theorem stepEvents_of_engineMoves {s t : State} (r : s.env.rst = false)
    (n : s.nextTurn = .engine ∨ ∃ v, s.nextTurn = .sampleRace v) (p : s.hpe.phase ≠ t.hpe.phase) :
    stepEvents s t = engineEvents s.hpe t.hpe := by
  rcases n with n | ⟨v, n⟩
  · exact stepEvents_of_engine r n p
  · exact stepEvents_of_race r n p

/-- A step out of a transfer stops it or keeps to it: the one step lemma of the event statements. -/
theorem step_of_busy {s t : State} (e : step s = .next t) (busy : s.hpe.busy = true) (two : s.hpe.TwoByte) :
    t.hpe.phase = .released ∨
    (s.hpe.GoesOn t.hpe (stepEvents s t) ∧ t.hpe.TwoByte ∧ s.hpe.Progress t.hpe (stepEvents s t)) := by
  cases r : s.env.rst with
  | true => exact .inl (by rw [step_hpe_of_asserted r e]; rfl)
  | false =>
    obtain ⟨p, a, b, c, z⟩ | ⟨n, p, q, g, m, z⟩ | stopped := (step_hpe r e).transfer_cases busy
    · have none : stepEvents s t = [] := stepEvents_of_phase_eq (by rw [z]; rfl)
      rw [none, z]
      exact .inr ⟨⟨rfl, rfl, rfl, rfl, rfl⟩, two, .inl ⟨busy, rfl, (List.append_nil _).symm⟩⟩
    · have events : stepEvents s t = engineEvents s.hpe t.hpe :=
        stepEvents_of_engineMoves r n (by rw [z]; exact m.phase_ne)
      rw [events, z]
      exact .inr ⟨m.goesOn.of_withPorts q, m.twoByte, m.progress two⟩
    · exact .inl stopped

/-! ### The events of a step -/

/-- Out of a transfer a step starts one with none shown, or starts none. -/
theorem HpeMove.eventsBefore_of_rest {s : State} {h : Hpe} (m : HpeMove s h) (rest : s.hpe.busy = false) :
    h.eventsBefore = [] := by
  have none : s.hpe.eventsBefore = [] := by
    rcases Hpe.busy_eq_false.1 rest with p | p <;> simp [Hpe.eventsBefore, p]
  cases m with
  | stay | port | tx0 | tx1 | reject | race0 => exact none
  | engine _ m => rw [m.busy] at rest; cases rest
  | race1 _ p | race2 _ p => simp [Hpe.busy, Phase.busy, p] at rest
  | _ => rfl

/-- Out of a transfer the engine has no step, so that a step shows no event. -/
theorem HpeMove.stepEvents_of_rest {s t : State} (m : HpeMove s t.hpe) (rest : s.hpe.busy = false) :
    stepEvents s t = [] := by
  generalize z : t.hpe = h at m
  cases m with
  | stay | port | race0 => exact stepEvents_of_phase_eq (by simp [z])
  | engine _ m => rw [m.busy] at rest; cases rest
  | race1 _ p | race2 _ p => simp [Hpe.busy, Phase.busy, p] at rest
  | reset n => simp [stepEvents, engineMoved, n]
  | _ n => exact stepEvents_of_controller n

/-- Settles O56: out of a transfer by the inversion of a step, and within one by its step lemma. -/
theorem eventsFollowThePhase : Obligations.EventsFollowThePhase := by
  unfold Obligations.EventsFollowThePhase
  intro s t i e
  refine ⟨fun rest => ?_, fun busy busy' => ?_, fun busy idle => ?_⟩
  · cases r : s.env.rst with
    | false => exact ⟨(step_hpe r e).stepEvents_of_rest rest, (step_hpe r e).eventsBefore_of_rest rest⟩
    | true =>
      have same : s.hpe.phase = t.hpe.phase := by rw [i.rst r, step_hpe_of_asserted r e]; rfl
      exact ⟨stepEvents_of_phase_eq same, by rw [step_hpe_of_asserted r e]; rfl⟩
  · rcases step_of_busy e busy i.hpe.twoByte with stopped | ⟨-, -, ⟨-, -, events⟩ | ⟨idle, -⟩⟩
    · rw [Hpe.not_busy_of_released stopped] at busy'; cases busy'
    · exact events
    · rw [Hpe.not_busy_of_idle idle] at busy'; cases busy'
  · rcases step_of_busy e busy i.hpe.twoByte with stopped | ⟨-, -, ⟨busy', -⟩ | ⟨-, -, events⟩⟩
    · rw [stopped] at idle; cases idle
    · rw [Hpe.not_busy_of_idle idle] at busy'; cases busy'
    · exact ⟨fun send => by rw [events, send]; rfl, fun receive => by rw [events, receive]; rfl⟩

/-! ### The events of a whole transfer -/

/-- A stopped transfer does not complete. -/
theorem Transfer.not_released {s u : State} {es : List TransferEvent} (tr : Transfer s es u) :
    s.hpe.phase ≠ .released := by
  intro p
  cases tr with
  | complete idle => rw [p] at idle; cases idle
  | move busy => rw [Hpe.not_busy_of_released p] at busy; cases busy

theorem Transfer.eq_of_idle {s u : State} {es : List TransferEvent} (tr : Transfer s es u)
    (idle : s.hpe.phase = .idle) : es = [] ∧ u = s := by
  cases tr with
  | complete => exact ⟨rfl, rfl⟩
  | move busy => rw [Hpe.not_busy_of_idle idle] at busy; cases busy

/-- A transfer in progress that completes shows what is left of its events, whoever moves in between. -/
theorem Transfer.of_busy {s u : State} {es : List TransferEvent} (tr : Transfer s es u) (busy : s.hpe.busy = true)
    (two : s.hpe.TwoByte) :
    s.hpe.GoesOn u.hpe es ∧ u.hpe.done = true ∧ s.hpe.eventsBefore ++ es = u.hpe.wholeEvents s.hpe.phase.isSend := by
  induction tr with
  | complete idle => rw [Hpe.not_busy_of_idle idle] at busy; cases busy
  | @move s t u es _ e tr ih =>
    rcases step_of_busy e busy two with stopped | ⟨on, two', ⟨busy', sort, events⟩ | ⟨idle, done, events⟩⟩
    · exact absurd stopped tr.not_released
    · obtain ⟨rest, done, whole⟩ := ih busy' two'
      exact ⟨on.trans rest, done, by rw [← List.append_assoc, ← events, whole, sort]⟩
    · obtain ⟨rfl, rfl⟩ := tr.eq_of_idle idle
      rw [List.append_nil]
      exact ⟨on, done, events⟩

/-- The phases in which a transfer starts (40_send.md R100, 41_receive.md R120, R122). -/
abbrev startPhases : List Phase := [.s1WaitRfd, .r1AssertRfd, .a0WaitAtn]

theorem Hpe.of_startPhase {h : Hpe} (start : h.phase ∈ startPhases) :
    h.busy = true ∧ h.TwoByte ∧ h.eventsBefore = [] := by
  simp only [List.mem_cons, List.not_mem_nil, or_false] at start
  rcases start with p | p | p <;> simp [Hpe.busy, Phase.busy, Hpe.TwoByte, Hpe.eventsBefore, p]

/-- An operation accepted in IDLE that completes shows the events of the whole transfer. -/
theorem Transfer.of_accept {f : Hpe → Hpe} {s t u : State} {es : List TransferEvent} (idle : s.hpe.phase = .idle)
    (e : startTransfer f s = .next t) (tr : Transfer t es u) (start : (f s.hpe.clearStatus).phase ∈ startPhases) :
    (f s.hpe.clearStatus).GoesOn u.hpe es ∧ u.hpe.done = true ∧
      es = u.hpe.wholeEvents (f s.hpe.clearStatus).phase.isSend := by
  rw [startTransfer_of_idle f idle] at e
  cases e
  obtain ⟨busy, two, none⟩ := Hpe.of_startPhase start
  have whole := tr.of_busy busy two
  rwa [State.withHpe_hpe, none] at whole

/-- Settles O36: the events of the whole send are of the bytes latched at the accept, and DOUT holds the last. -/
theorem sendShowsItsEventsInOrder : Obligations.SendShowsItsEventsInOrder := by
  unfold Obligations.SendShowsItsEventsInOrder
  intro s t u es idle
  constructor <;> intro e tr
  · obtain ⟨on, done, rfl⟩ := tr.of_accept idle e (by simp [Hpe.acceptSend])
    have events : u.hpe.sendEvents = [.dout s.hpe.tx0, .dav true, .dav false] := by
      rw [Hpe.sendEvents, on.w, on.txl0]; rfl
    exact ⟨events, on.dout.trans (congrArg (fieldAfter _ _) events), done⟩
  · obtain ⟨on, done, rfl⟩ := tr.of_accept idle e (by simp [Hpe.acceptSend])
    have events : u.hpe.sendEvents = [.dout s.hpe.tx0, .dav true, .dout s.hpe.tx1, .dav false] := by
      rw [Hpe.sendEvents, on.w, on.txl0, on.txl1]; rfl
    exact ⟨events, on.dout.trans (congrArg (fieldAfter _ _) events), done⟩

/-- A receive of one byte that completes shows its events and keeps RX1. -/
theorem Transfer.of_accept_one_byte {f : Hpe → Hpe} {s t u : State} {es : List TransferEvent}
    (idle : s.hpe.phase = .idle) (e : startTransfer f s = .next t) (tr : Transfer t es u)
    (start : (f s.hpe.clearStatus).phase ∈ startPhases) (receive : (f s.hpe.clearStatus).phase.isSend = false)
    (one : (f s.hpe.clearStatus).w = false) (kept : (f s.hpe.clearStatus).rx1 = s.hpe.rx1) :
    es = [.rfd true, .rfd false, .sample1 u.hpe.rx0, .dac true, .dac false] ∧ u.hpe.rx1 = s.hpe.rx1 ∧
      u.hpe.done = true := by
  obtain ⟨on, done, whole⟩ := tr.of_accept idle e start
  have events : es = [.rfd true, .rfd false, .sample1 u.hpe.rx0, .dac true, .dac false] := by
    rw [whole, receive, Hpe.wholeEvents, Hpe.receiveEvents, on.w, one]; rfl
  exact ⟨events, by rw [on.rx1, events, ← kept]; rfl, done⟩

/-- Settles O37: the events of the whole receive are of the bytes that stand in RX0 and RX1 at the end. -/
theorem receiveShowsItsEventsInOrder : Obligations.ReceiveShowsItsEventsInOrder := by
  unfold Obligations.ReceiveShowsItsEventsInOrder
  intro s t u es idle
  refine ⟨fun e tr => ?_, fun e tr => ?_⟩
  · rcases e with recv1 | await
    · exact tr.of_accept_one_byte idle recv1 (by simp [Hpe.acceptRecv]) rfl rfl rfl
    · exact tr.of_accept_one_byte idle await (by simp [Hpe.acceptAwait]) rfl rfl rfl
  · obtain ⟨on, done, rfl⟩ := tr.of_accept idle e (by simp [Hpe.acceptRecv])
    refine ⟨?_, done⟩
    change u.hpe.receiveEvents = _
    rw [Hpe.receiveEvents, on.w]; rfl

end Sys2Proof.Machine

namespace Sys2Proof.Machine

/-! ### What an engine step depends on -/

/-- What one step writes: the next phase, and each other field that a step may write, where it does. -/
structure Writes where
  phase : Phase
  dout : Option Byte := none
  dav : Option Bool := none
  rfd : Option Bool := none
  dac : Option Bool := none
  rx0 : Option Byte := none
  rx1 : Option Byte := none
  done : Option Bool := none

/-- The HPE after the writes. -/
def Hpe.write (h : Hpe) (x : Writes) : Hpe :=
  { h with
    phase := x.phase
    out := { dout := x.dout.getD h.out.dout, dav := x.dav.getD h.out.dav, rfd := x.rfd.getD h.out.rfd,
             dac := x.dac.getD h.out.dac }
    rx0 := x.rx0.getD h.rx0
    rx1 := x.rx1.getD h.rx1
    done := x.done.getD h.done }

/-- The engine's writes in a phase, from W, TXL0, TXL1 and the inbound ports alone (60_exceptions.md R169). -/
def engineWrites (p : Phase) (w : Bool) (txl0 txl1 : Byte) (i : InPorts) : Option Writes :=
  match p with
  | .released | .idle => none
  | .a0WaitAtn => if i.atn then some { phase := .r1AssertRfd } else none
  | .r1AssertRfd => some { phase := .r2WaitDav, rfd := some true }
  | .r2WaitDav => if i.dav then some { phase := .r3DeassertRfd } else none
  | .r3DeassertRfd => some { phase := .r4Sample1, rfd := some false }
  | .r4Sample1 => some { phase := .r5AssertDac, rx0 := some i.din }
  | .r5AssertDac => some { phase := .r6WaitDavLow, dac := some true }
  | .r6WaitDavLow => if !i.dav then some { phase := if w then .r7Sample2 else .r8DeassertDac } else none
  | .r7Sample2 => some { phase := .r8DeassertDac, rx1 := some i.din }
  | .r8DeassertDac => some { phase := .idle, dac := some false, done := some true }
  | .s1WaitRfd => if i.rfd then some { phase := .s2Drive1 } else none
  | .s2Drive1 => some { phase := .s3AssertDav, dout := some txl0 }
  | .s3AssertDav => some { phase := .s4WaitDac, dav := some true }
  | .s4WaitDac => if i.dac then some { phase := if w then .s5Drive2 else .s6DeassertDav } else none
  | .s5Drive2 => some { phase := .s6DeassertDav, dout := some txl1 }
  | .s6DeassertDav => some { phase := .s7WaitDacLow, dav := some false }
  | .s7WaitDacLow => if !i.dac then some { phase := .idle, done := some true } else none

theorem waitUntil_write (c : Bool) (h : Hpe) (x : Writes) :
    waitUntil c (h.write x) = (if c then some x else none).map h.write := by
  cases c <;> rfl

/-- The engine's step is its writes. -/
theorem engineStep_eq_writes (h : Hpe) :
    engineStep h = (engineWrites h.phase h.w h.txl0 h.txl1 h.inp).map h.write := by
  unfold engineStep
  cases h.phase <;> simp only [engineWrites, ← waitUntil_write] <;> rfl

/-- The phases whose step waits for nothing (10_state.md R30). -/
abbrev actionPhases : List Phase :=
  [.s2Drive1, .s3AssertDav, .s5Drive2, .s6DeassertDav, .r1AssertRfd, .r3DeassertRfd, .r4Sample1, .r5AssertDac,
   .r7Sample2, .r8DeassertDac]

theorem isSome_waitUntil (c : Bool) (h : Hpe) : (waitUntil c h).isSome = c := by
  cases c <;> rfl

theorem engineStep_isSome_iff (h : Hpe) :
    (engineStep h).isSome = true ↔ h.phase ∈ actionPhases ∨ h.waitCondition = some true := by
  unfold engineStep Hpe.waitCondition
  cases h.phase <;> simp [stepA0, stepR1, stepR2, stepR3, stepR4, stepR5, stepR6, stepR7, stepR8, stepS1, stepS2,
    stepS3, stepS4, stepS5, stepS6, stepS7, isSome_waitUntil]

/-- A write leaves a field in both HPEs as it is, or the same in both. -/
theorem getD_kept_or_same {α : Type} (o : Option α) (a b : α) :
    (o.getD a = a ∧ o.getD b = b) ∨ o.getD a = o.getD b := by
  cases o with
  | none => exact .inl ⟨rfl, rfl⟩
  | some => exact .inr rfl

/-- Settles O18: the writes are the same in both HPEs, since they are a function of what the two agree on. -/
theorem engineStepsExactlyWhenRuled : Obligations.EngineStepsExactlyWhenRuled := by
  unfold Obligations.EngineStepsExactlyWhenRuled
  refine ⟨engineStep_isSome_iff, fun h g phase w txl0 txl1 inp => ?_⟩
  rw [engineStep_eq_writes h, engineStep_eq_writes g, phase, w, txl0, txl1, inp]
  cases engineWrites g.phase g.w g.txl0 g.txl1 g.inp with
  | none => exact ⟨rfl, fun h' g' e => by cases e⟩
  | some x =>
    refine ⟨rfl, fun h' g' eh eg => ?_⟩
    cases eh; cases eg
    exact ⟨rfl, getD_kept_or_same x.dout _ _, getD_kept_or_same x.dav _ _, getD_kept_or_same x.rfd _ _,
      getD_kept_or_same x.dac _ _, getD_kept_or_same x.rx0 _ _, getD_kept_or_same x.rx1 _ _,
      getD_kept_or_same x.done _ _⟩

/-- Settles O19: the frame of the engine's moves, and the two of them that complete. -/
theorem engineStepFrame : Obligations.EngineStepFrame := by
  unfold Obligations.EngineStepFrame
  intro h h' e
  have m := engineStep_cases e
  obtain ⟨inp, oe, tx0, tx1, w, txl0, txl1, abt, rejc⟩ := m.frame
  exact ⟨inp, oe, tx0, tx1, w, txl0, txl1, abt, rejc, m.phase_ne.symm, m.done_cases.imp_left And.left⟩

/-! ### Which steps change a data field -/

/-- The engine writes RX0 in R4 only (41_receive.md R127). -/
theorem EngineMove.rx0_cases {h h' : Hpe} (m : EngineMove h h') :
    h'.rx0 = h.rx0 ∨ (h.phase = .r4Sample1 ∧ h'.rx0 = h.inp.din) := by
  cases m with
  | r4 p => exact .inr ⟨p, rfl⟩
  | _ => exact .inl rfl

/-- The engine writes RX1 in R7 only (41_receive.md R130). -/
theorem EngineMove.rx1_cases {h h' : Hpe} (m : EngineMove h h') :
    h'.rx1 = h.rx1 ∨ (h.phase = .r7Sample2 ∧ h'.rx1 = h.inp.din) := by
  cases m with
  | r7 p => exact .inr ⟨p, rfl⟩
  | _ => exact .inl rfl

section HpeMoves

variable {s : State} {h : Hpe} (m : HpeMove s h)
include m

theorem HpeMove.rx0_cases : h.rx0 = s.hpe.rx0 ∨
    (s.hpe.phase = .r4Sample1 ∧ ((s.nextTurn = .engine ∧ h.rx0 = s.hpe.inp.din) ∨ ∃ v, s.nextTurn = .sampleRace v)) ∨
    (s.nextTurn = .rst true ∧ h.rx0 = 0x00) := by
  cases m with
  | engine n m => exact m.rx0_cases.imp_right fun ⟨p, sampled⟩ => .inl ⟨p, .inl ⟨n, sampled⟩⟩
  | race1 n p => exact .inr (.inl ⟨p, .inr ⟨_, n⟩⟩)
  | reset n => exact .inr (.inr ⟨n, rfl⟩)
  | _ => exact .inl rfl

theorem HpeMove.rx1_cases : h.rx1 = s.hpe.rx1 ∨
    (s.hpe.phase = .r7Sample2 ∧ ((s.nextTurn = .engine ∧ h.rx1 = s.hpe.inp.din) ∨ ∃ v, s.nextTurn = .sampleRace v)) ∨
    (s.nextTurn = .rst true ∧ h.rx1 = 0x00) := by
  cases m with
  | engine n m => exact m.rx1_cases.imp_right fun ⟨p, sampled⟩ => .inl ⟨p, .inl ⟨n, sampled⟩⟩
  | race2 n p => exact .inr (.inl ⟨p, .inr ⟨_, n⟩⟩)
  | reset n => exact .inr (.inr ⟨n, rfl⟩)
  | _ => exact .inl rfl

theorem HpeMove.tx0_cases : h.tx0 = s.hpe.tx0 ∨
    (s.nextTurn = .controller ∧ ∃ ls, s.env.program = .wr 0x2 h.tx0 :: ls) ∨ s.nextTurn = .rst true := by
  cases m with
  | engine _ m => obtain ⟨-, -, tx0, -⟩ := m.frame; exact .inl tx0
  | tx0 n p => exact .inr (.inl ⟨n, _, p⟩)
  | reset n => exact .inr (.inr n)
  | _ => exact .inl rfl

theorem HpeMove.tx1_cases : h.tx1 = s.hpe.tx1 ∨
    (s.nextTurn = .controller ∧ ∃ ls, s.env.program = .wr 0x3 h.tx1 :: ls) ∨ s.nextTurn = .rst true := by
  cases m with
  | engine _ m => obtain ⟨-, -, -, tx1, -⟩ := m.frame; exact .inl tx1
  | tx1 n p => exact .inr (.inl ⟨n, _, p⟩)
  | reset n => exact .inr (.inr n)
  | _ => exact .inl rfl

/-- TXL0 and TXL1 are loaded together, by the accept of a SEND (10_state.md R32). -/
theorem HpeMove.txl_cases : (h.txl0 = s.hpe.txl0 ∧ h.txl1 = s.hpe.txl1) ∨
    (s.nextTurn = .controller ∧ s.hpe.phase = .idle ∧ h.txl0 = s.hpe.tx0 ∧ h.txl1 = s.hpe.tx1 ∧
      ∃ v ls, s.env.program = .wr 0x0 v :: ls ∧ (v = 0x01#8 ∨ v = 0x09#8)) ∨ s.nextTurn = .rst true := by
  cases m with
  | engine _ m => obtain ⟨-, -, -, -, -, txl0, txl1, -⟩ := m.frame; exact .inl ⟨txl0, txl1⟩
  | send1 n p idle => exact .inr (.inl ⟨n, idle, rfl, rfl, _, _, p, .inl rfl⟩)
  | send2 n p idle => exact .inr (.inl ⟨n, idle, rfl, rfl, _, _, p, .inr rfl⟩)
  | reset n => exact .inr (.inr n)
  | _ => exact .inl ⟨rfl, rfl⟩

/-! ### Which steps change OE, leave RELEASED, and change DONE and ABT -/

theorem HpeMove.oe_cases : h.oe = s.hpe.oe ∨
    (h.oe = true ∧ s.nextTurn = .controller ∧ ∃ ls, s.env.program = .wr 0x0 0x06 :: ls) ∨
    (h.oe = false ∧
      ((s.nextTurn = .controller ∧ ∃ ls, s.env.program = .wr 0x0 0x07 :: ls) ∨ s.nextTurn = .rst true)) := by
  cases m with
  | engine _ m => obtain ⟨-, oe, -⟩ := m.frame; exact .inl oe
  | enable n p => exact .inr (.inl ⟨rfl, n, _, p⟩)
  | release n p => exact .inr (.inr ⟨rfl, .inl ⟨n, _, p⟩⟩)
  | reset n => exact .inr (.inr ⟨rfl, .inr n⟩)
  | _ => exact .inl rfl

/-- ENABLE is the only way out of RELEASED (70_reset_and_hazards.md R191). -/
theorem HpeMove.phase_of_released (p : s.hpe.phase = .released) : h.phase = .released ∨
    (h.phase = .idle ∧ s.nextTurn = .controller ∧ ∃ ls, s.env.program = .wr 0x0 0x06 :: ls) := by
  cases m with
  | stay | port | tx0 | tx1 | reject | race0 => exact .inl p
  | release | reset => exact .inl rfl
  | enable n line => exact .inr ⟨rfl, n, _, line⟩
  | engine _ m =>
    have busy := m.busy
    rw [Hpe.not_busy_of_released p] at busy
    cases busy
  | send1 _ _ q | send2 _ _ q | recv1 _ _ q | recv2 _ _ q | awaitcmd _ _ q | race1 _ q | race2 _ q =>
    rw [p] at q; cases q

/-- DONE and ABT change by the engine, which keeps ABT and completes in S7 and R8, by an accepted operation other
than NOP, which clears DONE and REJC and leaves ABT = 1 only as a RELEASE in a transfer, or by the assertion of `rst`. -/
theorem HpeMove.done_abt_cases :
    (h.done = s.hpe.done ∧ h.abt = s.hpe.abt) ∨
    (h.done = true ∧ h.abt = s.hpe.abt ∧ s.nextTurn = .engine ∧ h.phase = .idle ∧
      (s.hpe.phase = .s7WaitDacLow ∨ s.hpe.phase = .r8DeassertDac)) ∨
    (h.done = false ∧ h.rejc = .none ∧ s.nextTurn = .controller ∧
      ∃ i ls, i ≠ .nop ∧ s.env.program = .wr 0x0 (encode i) :: ls ∧
        (h.abt = true → i = .release ∧ s.hpe.busy = true)) ∨
    (h.done = false ∧ h.abt = false ∧ s.nextTurn = .rst true) := by
  cases m with
  | engine n m =>
    cases m with
    | s7 p => exact .inr (.inl ⟨rfl, rfl, n, rfl, .inl p⟩)
    | r8 p => exact .inr (.inl ⟨rfl, rfl, n, rfl, .inr p⟩)
    | _ => exact .inl ⟨rfl, rfl⟩
  | release n p => exact .inr (.inr (.inl ⟨rfl, rfl, n, .release, _, by decide, p, fun stopped => ⟨rfl, stopped⟩⟩))
  | enable n p => exact .inr (.inr (.inl ⟨rfl, rfl, n, .enable, _, by decide, p, nofun⟩))
  | send1 n p => exact .inr (.inr (.inl ⟨rfl, rfl, n, .send1, _, by decide, p, nofun⟩))
  | send2 n p => exact .inr (.inr (.inl ⟨rfl, rfl, n, .send2, _, by decide, p, nofun⟩))
  | recv1 n p => exact .inr (.inr (.inl ⟨rfl, rfl, n, .recv1, _, by decide, p, nofun⟩))
  | recv2 n p => exact .inr (.inr (.inl ⟨rfl, rfl, n, .recv2, _, by decide, p, nofun⟩))
  | awaitcmd n p => exact .inr (.inr (.inl ⟨rfl, rfl, n, .awaitcmd, _, by decide, p, nofun⟩))
  | reset n => exact .inr (.inr (.inr ⟨rfl, rfl, n⟩))
  | _ => exact .inl ⟨rfl, rfl⟩

end HpeMoves

/-- Settles O31: the engine's two samples, the two racing samples, and reset are the moves that touch RX0 or RX1. -/
theorem receivedBytesChangeOnlyAtSamples : Obligations.ReceivedBytesChangeOnlyAtSamples := by
  unfold Obligations.ReceivedBytesChangeOnlyAtSamples
  intro s t r e
  have m := step_hpe r e
  exact ⟨m.rx0_cases.resolve_left, m.rx1_cases.resolve_left⟩

/-- Settles O32: the moves that touch TX are the two register writes, those that touch TXL the accepts of a SEND,
and reset touches both. -/
theorem sendDataChangesOnlyByItsWrites : Obligations.SendDataChangesOnlyByItsWrites := by
  unfold Obligations.SendDataChangesOnlyByItsWrites
  intro s t r e
  have m := step_hpe r e
  exact ⟨m.tx0_cases.resolve_left, m.tx1_cases.resolve_left,
    fun changed => m.txl_cases.resolve_left (not_and_or.2 changed)⟩

/-- Settles O33: ENABLE sets OE, RELEASE and reset clear it, and only ENABLE leaves RELEASED. -/
theorem onlyEnableDrivesThePins : Obligations.OnlyEnableDrivesThePins := by
  unfold Obligations.OnlyEnableDrivesThePins
  intro s t r e
  have m := step_hpe r e
  refine ⟨fun low high => ?_, fun high low => ?_, fun p left => (m.phase_of_released p).resolve_left left⟩
  · rcases m.oe_cases with same | ⟨-, cause⟩ | ⟨low', -⟩
    · rw [same, low] at high; cases high
    · exact cause
    · rw [low'] at high; cases high
  · rcases m.oe_cases with same | ⟨high', -⟩ | ⟨-, cause⟩
    · rw [same, high] at low; cases low
    · rw [high'] at low; cases low
    · exact cause

/-- Settles O34: each clause by the moves that change DONE or ABT its way. -/
theorem doneAndAbtChangeAsRuled : Obligations.DoneAndAbtChangeAsRuled := by
  unfold Obligations.DoneAndAbtChangeAsRuled
  intro s t r e
  rcases (step_hpe r e).done_abt_cases with ⟨done, abt⟩ | ⟨done, abt, n, idle, p⟩ |
    ⟨done, rejc, n, i, ls, other, line, release⟩ | ⟨done, abt, n⟩
  · simp_all
  · refine ⟨fun _ _ => ⟨n, idle, p⟩, ?_, ?_⟩ <;> simp_all
  · refine ⟨by simp [done], fun _ stopped => ?_, fun _ => .inl ⟨n, encode i, ls, line, ?_, ⟨i, decode_encode i⟩, rejc⟩⟩
    · obtain ⟨rfl, busy⟩ := release stopped
      exact ⟨n, busy, ls, line⟩
    · intro z
      have nop : decode (encode i) = .ok .nop := (decode_eq_ok_iff .nop _).2 z
      rw [decode_encode] at nop
      exact other (Except.ok.inj nop)
  · simp_all

end Sys2Proof.Machine

namespace Sys2Proof.Machine

/-! ### The CMD write as a step -/

/-- Settles O1: each byte is the byte of its operation, and decoding inverts encoding. -/
theorem opcodeMapBytesDecode : Obligations.OpcodeMapBytesDecode := by
  unfold Obligations.OpcodeMapBytesDecode
  exact ⟨decode_encode .nop, decode_encode .send1, decode_encode .send2, decode_encode .recv1, decode_encode .recv2,
    decode_encode .awaitcmd, decode_encode .enable, decode_encode .release⟩

theorem State.nextTurn_of_cons {s : State} {n : Turn} {ts : List Turn} (sched : s.env.schedule = n :: ts) :
    s.nextTurn = n := by
  rw [State.nextTurn, sched]; rfl

theorem State.nextTurn_of_nil {s : State} (sched : s.env.schedule = []) : s.nextTurn = .engine := by
  rw [State.nextTurn, sched]; rfl

/-- The controller's write of a byte to CMD, as a step: the turn and the line are taken, and the byte is written. -/
theorem step_of_cmd {s : State} {v : Byte} {ls : List ProgLine} (r : s.env.rst = false) (n : s.nextTurn = .controller)
    (p : s.env.program = .wr 0x0 v :: ls) : step s = cmdWrite v (s.tick.withProgram ls) := by
  rw [step_of_controller r n, controllerTurn, State.tick_program, p]
  exact regWrite_cmd (s := s.tick.withProgram ls) r v

/-- The turn and the line taken, with the schedule named. -/
theorem State.tick_withProgram_eq {s : State} {n : Turn} {ts : List Turn} (sched : s.env.schedule = n :: ts)
    (ls : List ProgLine) : s.tick.withProgram ls =
      { s with env := { s.env with schedule := ts, program := ls, freeIndex := s.env.freeIndex + 1 } } := by
  rw [State.withProgram, State.tick, sched]; rfl

theorem cmdWrite_of_ok {v : Byte} {i : Instr} (d : decode v = .ok i) (s : State) : cmdWrite v s = exec i s := by
  rw [cmdWrite, d]

/-- Settles O4: the step is the CMD write, and the byte decodes. -/
theorem stepRunsTheDecodedInstruction : Obligations.StepRunsTheDecodedInstruction := by
  unfold Obligations.StepRunsTheDecodedInstruction
  intro s i v ts ls r sched p d _
  rw [step_of_cmd r (State.nextTurn_of_cons sched) p, cmdWrite_of_ok d, State.tick_withProgram_eq sched]

/-- Settles O5: the step is the CMD write, and the byte is illegal. -/
theorem stepRejectsAnIllegalByte : Obligations.StepRejectsAnIllegalByte := by
  unfold Obligations.StepRejectsAnIllegalByte
  intro s x v ts ls r sched p d
  rw [step_of_cmd r (State.nextTurn_of_cons sched) p, cmdWrite_of_illegal d, State.tick_withProgram_eq sched]
  rfl

theorem decode_tableByte {nbits w : Nat} {i : Instr} (d : decodeTableWord nbits w = some i) :
    decode (tableByte nbits w) = .ok i := by
  unfold decodeTableWord at d
  cases e : decode (tableByte nbits w) with
  | ok j => rw [e] at d; cases d; rfl
  | error x => rw [e] at d; cases d

/-- Settles O6: the placed byte is the next line and the next turn is the controller's. -/
theorem fetchWordRunsNext : Obligations.FetchWordRunsNext := by
  unfold Obligations.FetchWordRunsNext
  intro s nbits w i d
  have write : step (s.withFetchWord nbits w) = cmdWrite (tableByte nbits w) _ := step_of_cmd rfl rfl rfl
  rw [write, cmdWrite_of_ok (decode_tableByte d)]
  rfl

/-- Settles O9: both operations are accepted in IDLE. -/
theorem sendIsAcceptedInIdle : Obligations.SendIsAcceptedInIdle := by
  unfold Obligations.SendIsAcceptedInIdle
  exact fun s idle => ⟨startTransfer_of_idle _ idle, startTransfer_of_idle _ idle⟩

/-- Settles O10: the three operations are accepted in IDLE. -/
theorem receiveIsAcceptedInIdle : Obligations.ReceiveIsAcceptedInIdle := by
  unfold Obligations.ReceiveIsAcceptedInIdle
  exact fun s idle => ⟨startTransfer_of_idle _ idle, startTransfer_of_idle _ idle, startTransfer_of_idle _ idle⟩

/-! ### A POLL line as a step -/

theorem controllerTurn_of_poll {s : State} {a : RegAddr} {mask val : Byte} {ls : List ProgLine}
    (p : s.env.program = .poll a mask val :: ls) :
    controllerTurn s = if regRead a s.hpe &&& mask = val then .next (s.withProgram ls) else .next s := by
  rw [controllerTurn, p]

/-- Settles O46: the one read of the turn finds the awaited value or does not. -/
theorem pollWaitsForTheMaskedByte : Obligations.PollWaitsForTheMaskedByte := by
  unfold Obligations.PollWaitsForTheMaskedByte
  intro s a mask val ls r n p
  rw [step_of_controller r n, controllerTurn_of_poll (s := s.tick) p]
  exact ⟨fun found => if_pos found, fun other => if_neg other⟩

/-! ### The engine's turn -/

theorem engineTurn_of_none {h : Hpe} (e : engineStep h = none) : engineTurn h = h := by
  rw [engineTurn, e]; rfl

theorem engineTurn_of_some {h h' : Hpe} (e : engineStep h = some h') : engineTurn h = h' := by
  rw [engineTurn, e]; rfl

theorem EngineMove.engineTurn_eq {h h' : Hpe} (m : EngineMove h h') : engineTurn h = h' :=
  engineTurn_of_some m.engineStep_eq

/-- A held engine's turn changes nothing (log 4). -/
theorem engineTurn_of_held {h : Hpe} (held : h.waitCondition = some false) : engineTurn h = h := by
  rcases engineTurn_cases h with ⟨-, same⟩ | m
  · exact same
  · exact absurd held m.not_held

/-- A resting engine's turn changes nothing (log 4). -/
theorem engineTurn_of_rest {h : Hpe} (rest : h.busy = false) : engineTurn h = h := by
  rcases engineTurn_cases h with ⟨-, same⟩ | m
  · exact same
  · rw [m.busy] at rest; cases rest

/-- Settles O8: an unscheduled turn is the engine's. -/
theorem anUnscheduledStepIsTheEngines : Obligations.AnUnscheduledStepIsTheEngines := by
  unfold Obligations.AnUnscheduledStepIsTheEngines
  intro s r sched
  have tick : s.tick = { s with env := { s.env with freeIndex := s.env.freeIndex + 1 } } := by
    rw [State.tick, sched, List.tail_nil, ← sched]
  rw [step_of_engine r (State.nextTurn_of_nil sched), tick]
  exact ⟨fun h e => by rw [engineTurn_of_some e]; rfl, fun e => by rw [engineTurn_of_none e]; rfl⟩

/-- The engine's turn in a phase that waits, from the rule for each level. -/
theorem engineTurn_of_wait {h h' : Hpe} {c : Bool} (wait : h.waitCondition = some c) (go : c = true → EngineMove h h') :
    engineTurn h = if c then h' else h := by
  cases c with
  | true => exact (go rfl).engineTurn_eq
  | false => exact engineTurn_of_held wait

/-- S4 and R6 choose the next phase by W. -/
theorem EngineMove.by_width {h a b : Hpe} (two : h.w = true → EngineMove h a) (one : h.w = false → EngineMove h b) :
    EngineMove h (if h.w then a else b) := by
  cases w : h.w with
  | true => exact two w
  | false => exact one w

/-- Settles O16: the engine's move in each phase, and its held turn in the three that wait. -/
theorem sendPhasesStepAsRuled : Obligations.SendPhasesStepAsRuled := by
  unfold Obligations.SendPhasesStepAsRuled
  intro s r n
  rw [step_of_engine r n]
  refine ⟨fun p => ?_, fun p => ?_, fun p => ?_, fun p => ?_, fun p => ?_, fun p => ?_, fun p => ?_⟩
  · rw [engineTurn_of_wait (by simp [Hpe.waitCondition, p]) (EngineMove.s1 p)]; rfl
  · rw [(EngineMove.s2 p).engineTurn_eq]; rfl
  · rw [(EngineMove.s3 p).engineTurn_eq]; rfl
  · rw [engineTurn_of_wait (by simp [Hpe.waitCondition, p])
      fun dac => EngineMove.by_width (EngineMove.s4two p dac) (EngineMove.s4one p dac)]; rfl
  · rw [(EngineMove.s5 p).engineTurn_eq]; rfl
  · rw [(EngineMove.s6 p).engineTurn_eq]; rfl
  · rw [engineTurn_of_wait (c := !s.hpe.inp.dac) (by simp [Hpe.waitCondition, p])
      fun low => EngineMove.s7 p (by simpa using low)]
    cases s.hpe.inp.dac <;> rfl

/-- Settles O17: the engine's move in each phase, and its held turn in the three that wait. -/
theorem receivePhasesStepAsRuled : Obligations.ReceivePhasesStepAsRuled := by
  unfold Obligations.ReceivePhasesStepAsRuled
  intro s r n
  rw [step_of_engine r n]
  refine ⟨fun p => ?_, fun p => ?_, fun p => ?_, fun p => ?_, fun p => ?_, fun p => ?_, fun p => ?_, fun p => ?_,
    fun p => ?_⟩
  · rw [engineTurn_of_wait (by simp [Hpe.waitCondition, p]) (EngineMove.a0 p)]; rfl
  · rw [(EngineMove.r1 p).engineTurn_eq]; rfl
  · rw [engineTurn_of_wait (by simp [Hpe.waitCondition, p]) (EngineMove.r2 p)]; rfl
  · rw [(EngineMove.r3 p).engineTurn_eq]; rfl
  · rw [(EngineMove.r4 p).engineTurn_eq]; rfl
  · rw [(EngineMove.r5 p).engineTurn_eq]; rfl
  · rw [engineTurn_of_wait (c := !s.hpe.inp.dav) (by simp [Hpe.waitCondition, p])
      fun low => EngineMove.by_width (EngineMove.r6two p (by simpa using low)) (EngineMove.r6one p (by simpa using low))]
    cases s.hpe.inp.dav <;> rfl
  · rw [(EngineMove.r7 p).engineTurn_eq]; rfl
  · rw [(EngineMove.r8 p).engineTurn_eq]; rfl

theorem step_of_race {s : State} {v : Byte} (r : s.env.rst = false) (n : s.nextTurn = .sampleRace v) :
    step s = .next (s.tick.withHpe (sampleRaceTurn v (Config.tornSample (s.env.freeIndex + 1)) s.hpe)) := by
  rw [step_eq, n, State.holdReset_tick s r]; rfl

/-- Settles O50: a racing turn samples in R4 and R7 only. -/
theorem racingSampleTakesAFreeByte : Obligations.RacingSampleTakesAFreeByte := by
  unfold Obligations.RacingSampleTakesAFreeByte
  intro s v r n
  rw [step_of_race r n]
  rcases sampleRaceTurn_cases v (Config.tornSample (s.env.freeIndex + 1)) s.hpe with ⟨p, z⟩ | ⟨p, z⟩ | ⟨p, q, z⟩ <;>
    rw [z]
  · exact ⟨fun _ => rfl, fun p' => absurd (p.symm.trans p') (by decide), fun p' => absurd p p'⟩
  · exact ⟨fun p' => absurd (p.symm.trans p') (by decide), fun _ => rfl, fun _ p' => absurd p p'⟩
  · exact ⟨fun p' => absurd p' p, fun p' => absurd p' q, fun _ _ => rfl⟩

/-- Settles O53: the unscheduled turn is that of a resting engine. -/
theorem anEndedRunStaysAsItIs : Obligations.AnEndedRunStaysAsItIs := by
  unfold Obligations.AnEndedRunStaysAsItIs
  intro s t ended sched r e
  obtain ⟨-, rest⟩ := s.ended_iff.1 ended
  rw [step_of_engine r (State.nextTurn_of_nil sched), engineTurn_of_rest rest] at e
  cases e
  exact ⟨rfl, ended, by rw [State.withHpe_env, State.tick_schedule, sched]; rfl⟩

/-! ### RELEASE in the instant of completion -/

theorem step_of_release {s : State} {ls : List ProgLine} (r : s.env.rst = false) (n : s.nextTurn = .controller)
    (p : s.env.program = .wr 0x0 0x07 :: ls) : step s = .next ((s.tick.withProgram ls).withHpe s.hpe.release) := by
  rw [step_of_cmd r n p]
  exact cmdWrite_encode .release _

theorem run_two {s t u : State} (e : step s = .next t) (e' : step t = .next u) :
    Host.Core.run Sys2Proof.core 2 s = .next u :=
  (run_of_step e 1).trans (run_of_step e' 0)

/-- Settles O41: the two orders, each as two steps. RELEASE first leaves a resting engine; completion first leaves
BUSY = 0 for RELEASE to find. -/
theorem releaseRacesWithCompletion : Obligations.ReleaseRacesWithCompletion := by
  unfold Obligations.ReleaseRacesWithCompletion
  intro s ts ls p low r line
  have stopped : s.hpe.release.abt = true := by simp [Hpe.release, Hpe.busy, Phase.busy, p]
  have resting : engineTurn s.hpe.release = s.hpe.release := engineTurn_of_rest rfl
  have completed : engineTurn s.hpe = s.hpe.complete := (EngineMove.s7 p low).engineTurn_eq
  refine ⟨_, _, run_two (step_of_release r rfl line) (step_of_engine r rfl),
    run_two (step_of_engine r rfl) (step_of_release r rfl line), ?_⟩
  simp only [State.withHpe_hpe, resting, completed]
  exact ⟨stopped, rfl, rfl, rfl, rfl, rfl⟩

/-! ### Phase codes and pins -/

/-- The table of 10_state.md R30. -/
def phaseTable : List (Phase × BitVec 5) :=
  [(.released, 0x00#5), (.idle, 0x01#5), (.a0WaitAtn, 0x02#5), (.r1AssertRfd, 0x08#5), (.r2WaitDav, 0x09#5),
   (.r3DeassertRfd, 0x0A#5), (.r4Sample1, 0x0B#5), (.r5AssertDac, 0x0C#5), (.r6WaitDavLow, 0x0D#5),
   (.r7Sample2, 0x0E#5), (.r8DeassertDac, 0x0F#5), (.s1WaitRfd, 0x10#5), (.s2Drive1, 0x11#5),
   (.s3AssertDav, 0x12#5), (.s4WaitDac, 0x13#5), (.s5Drive2, 0x14#5), (.s6DeassertDav, 0x15#5),
   (.s7WaitDacLow, 0x16#5)]

theorem mem_phaseTable (p : Phase) : (p, p.code) ∈ phaseTable := by
  cases p <;> decide

theorem phaseTable_codes_nodup : (phaseTable.map Prod.snd).Nodup := by decide

theorem phaseTable_codes_used :
    ∀ e ∈ phaseTable, e.2.toNat ∉ [3, 4, 5, 6, 7, 23, 24, 25, 26, 27, 28, 29, 30, 31] := by decide

theorem Phase.code_injective {p q : Phase} (same : p.code = q.code) : p = q :=
  congrArg Prod.fst (List.inj_on_of_nodup_map phaseTable_codes_nodup (mem_phaseTable p) (mem_phaseTable q) same)

/-- Settles O47: every phase stands in the table, whose codes differ and are none of the unused ones. -/
theorem phaseCodesAreTheEighteen : Obligations.PhaseCodesAreTheEighteen := by
  unfold Obligations.PhaseCodesAreTheEighteen
  refine ⟨mem_phaseTable, fun p q same => Phase.code_injective same, fun h => ?_⟩
  obtain ⟨-, -, code, -⟩ := lineAndPhaseRegisterLayouts h
  rw [code]
  exact phaseTable_codes_used _ (mem_phaseTable h.phase)

theorem Hpe.pins_of_enabled {h : Hpe} (oe : h.oe = true) : h.pins =
    { dout := some h.out.dout, dav := some h.out.dav, rfd := some h.out.rfd, dac := some h.out.dac } := by
  rw [Hpe.pins, if_pos oe]

theorem Hpe.pins_of_disabled {h : Hpe} (oe : h.oe = false) :
    h.pins = { dout := none, dav := none, rfd := none, dac := none } := by
  rw [Hpe.pins, oe]; rfl

/-- Settles O48: a driven pin has a level, so the host's free level is not looked at. -/
theorem pinsFollowOutputEnable : Obligations.PinsFollowOutputEnable := by
  unfold Obligations.PinsFollowOutputEnable
  refine fun s => ⟨fun oe => ?_, Hpe.pins_of_disabled⟩
  have pins := Hpe.pins_of_enabled oe
  refine ⟨pins, ?_, ?_, ?_, ?_⟩
  · rw [State.hostSeesData, pins]; rfl
  all_goals rw [State.hostSeesLine, pins]; rfl

end Sys2Proof.Machine

namespace Sys2Proof.Machine

/-! ### A host that serves a transfer -/

/-- The HPE after a turn of the engine or of the host. -/
def Hpe.afterTurn (h : Hpe) : Turn → Hpe
  | .engine => engineTurn h
  | .host c => h.setPort c
  | .controller | .rst _ | .sampleRace _ => h

/-- A turn of the engine or of the host. -/
def Turn.isServing : Turn → Bool
  | .engine | .host _ => true
  | .controller | .rst _ | .sampleRace _ => false

theorem step_of_serving {s : State} {n : Turn} (r : s.env.rst = false) (next : s.nextTurn = n)
    (serving : n.isServing = true) : step s = .next (s.tick.withHpe (s.hpe.afterTurn n)) := by
  cases n with
  | engine => exact step_of_engine r next
  | host c => exact step_of_host r next
  | controller | rst | sampleRace => cases serving

/-- A run of engine and host turns takes them one after the other. -/
theorem run_of_serving {us ts : List Turn} {s : State} (r : s.env.rst = false) (sched : s.env.schedule = us ++ ts)
    (serving : ∀ n ∈ us, n.isServing = true) :
    ∃ u, Host.Core.run Sys2Proof.core us.length s = .next u ∧ u.env.schedule = ts ∧
      u.hpe = us.foldl Hpe.afterTurn s.hpe := by
  induction us generalizing s with
  | nil => exact ⟨s, rfl, sched, rfl⟩
  | cons n us ih =>
    obtain ⟨head, tail⟩ := List.forall_mem_cons.1 serving
    have e := step_of_serving r (State.nextTurn_of_cons sched) head
    have rest : (s.tick.withHpe (s.hpe.afterTurn n)).env.schedule = us ++ ts := congrArg List.tail sched
    obtain ⟨u, run, left, z⟩ := ih (s := s.tick.withHpe (s.hpe.afterTurn n)) r rest tail
    exact ⟨u, (run_of_step e us.length).trans run, left, z⟩

/-- An operation accepted in IDLE, and then the turns of a host that serves it. -/
theorem run_of_accept {f : Hpe → Hpe} {us ts : List Turn} {s : State} (idle : s.hpe.phase = .idle)
    (r : s.env.rst = false) (sched : s.env.schedule = us ++ ts) (serving : ∀ n ∈ us, n.isServing = true) :
    ∃ t u, startTransfer f s = .next t ∧ Host.Core.run Sys2Proof.core us.length t = .next u ∧
      u.env.schedule = ts ∧ u.hpe = us.foldl Hpe.afterTurn (f s.hpe.clearStatus) := by
  obtain ⟨u, run, left, z⟩ := run_of_serving (s := s.withHpe (f s.hpe.clearStatus)) r sched serving
  exact ⟨_, u, startTransfer_of_idle f idle, run, left, z⟩

/-- Settles O38: each turn is a host step or the engine's move in a phase whose level is there. -/
theorem servedSendCompletes : Obligations.ServedSendCompletes := by
  unfold Obligations.ServedSendCompletes
  intro s w ts idle r sched
  obtain ⟨t, u, e, run, left, z⟩ := run_of_accept (f := Hpe.acceptSend w) idle r sched (by cases w <;> decide)
  exact ⟨t, u, by cases w <;> exact e, run, left, by rw [z]; cases w <;> rfl⟩

/-- Settles O39: each turn is a host step or the engine's move in a phase whose level is there. -/
theorem servedReceiveCompletes : Obligations.ServedReceiveCompletes := by
  unfold Obligations.ServedReceiveCompletes
  intro s w b1 b2 ts idle r sched
  obtain ⟨t, u, e, run, left, z⟩ := run_of_accept (f := Hpe.acceptRecv w) idle r sched
    (by cases w <;> simp [serveRecv, Turn.isServing])
  exact ⟨t, u, by cases w <;> exact e, run, left, by rw [z]; cases w <;> rfl⟩

/-- Settles O40: each turn is a host step or the engine's move in a phase whose level is there. -/
theorem servedAwaitCompletes : Obligations.ServedAwaitCompletes := by
  unfold Obligations.ServedAwaitCompletes
  intro s c ts idle r sched
  obtain ⟨t, u, e, run, left, z⟩ := run_of_accept (f := Hpe.acceptAwait) idle r sched
    (by simp [serveAwait, serveRecv, Turn.isServing])
  exact ⟨t, u, e, run, left, z⟩

/-! ### A receive that completes with DAV high -/

theorem reachable_of_run {s : State} (n : Nat) {t u : State} (start : Reachable s t)
    (run : Host.Core.run Sys2Proof.core n t = .next u) : Reachable s u := by
  induction n generalizing t with
  | zero => cases run; exact start
  | succ n ih =>
    obtain ⟨t', e, -⟩ := step_answers t
    exact ih (start.snoc e) ((run_of_step e n).symm.trans run)

/-- From reset: ENABLE and RECV1, and a host that serves R2 and R6 but asserts DAV again before R8. -/
def davRaisedAgain : Env where
  rst := false
  schedule := [.controller, .controller, .engine, .host (.dav true), .engine, .engine, .engine, .engine,
    .host (.dav false), .engine, .host (.dav true), .engine]
  program := [.wr 0x0 0x06, .wr 0x0 0x02]
  names := []
  freeIndex := 0

/-- The HPE in R8 with DAV high. -/
def heldDavInR8 : Hpe :=
  { Hpe.reset with
    inp := { Hpe.reset.inp with dav := true }
    out := { Hpe.reset.out with dac := true }
    oe := true
    phase := .r8DeassertDac }

/-- The state after all turns of `davRaisedAgain` but the last. -/
def beforeCompletion : State where
  hpe := heldDavInR8
  env := { rst := false, schedule := [.engine], program := [], names := [], freeIndex := 11 }

theorem run_davRaisedAgain : Host.Core.run Sys2Proof.core 11 { hpe := Hpe.reset, env := davRaisedAgain } =
    .next beforeCompletion := by
  rfl

/-- Refutes O27: R8 does not look at DAV, which the host asserted again after R6. -/
theorem not_receiveCompletesWithDavLow : ¬ Obligations.ReceiveCompletesWithDavLow := by
  unfold Obligations.ReceiveCompletesWithDavLow
  intro low
  have completion := step_of_engine (s := beforeCompletion) rfl rfl
  have dav := low davRaisedAgain beforeCompletion _ (reachable_of_run 11 .refl run_davRaisedAgain) rfl completion rfl
  exact absurd dav (by decide)

/-! ### The first ended state of a run -/

/-- The run from `s` is at `u` after `k` steps, and `u` is its first state at the program's end with the phase at
rest (60_exceptions.md R174). -/
def FirstEnded (k : Nat) (s u : State) : Prop :=
  Host.Core.run Sys2Proof.core k s = .next u ∧ u.ended = true ∧
    ∀ (j : Nat) (v : State), j < k → Host.Core.run Sys2Proof.core j s = .next v → v.ended = false

theorem firstEnded_zero {s u : State} : FirstEnded 0 s u ↔ s.ended = true ∧ u = s := by
  constructor
  · rintro ⟨run, ended, -⟩
    cases run
    exact ⟨ended, rfl⟩
  · rintro ⟨ended, rfl⟩
    exact ⟨rfl, ended, fun j v before => absurd before (Nat.not_lt_zero j)⟩

theorem firstEnded_succ {s t u : State} (e : step s = .next t) (k : Nat) :
    FirstEnded (k + 1) s u ↔ s.ended = false ∧ FirstEnded k t u := by
  constructor
  · rintro ⟨run, ended, earlier⟩
    exact ⟨earlier 0 s k.succ_pos rfl, (run_of_step e k).symm.trans run, ended, fun j v before run' =>
      earlier (j + 1) v (Nat.succ_lt_succ before) ((run_of_step e j).trans run')⟩
  · rintro ⟨running, run, ended, earlier⟩
    refine ⟨(run_of_step e k).trans run, ended, fun j v before run' => ?_⟩
    cases j with
    | zero => cases run'; exact running
    | succ j => exact earlier j v (Nat.lt_of_succ_lt_succ before) ((run_of_step e j).symm.trans run')

/-- The search for the end finds the first ended state within its bound. -/
theorem runEnd_eq_some_iff (n : Nat) (s u : State) : runEnd n s = some u ↔ ∃ k, k ≤ n ∧ FirstEnded k s u := by
  induction n generalizing s with
  | zero =>
    simp only [Nat.le_zero, exists_eq_left, firstEnded_zero]
    cases ended : s.ended with
    | true => simp [runEnd_of_ended ended, eq_comm]
    | false => simp [runEnd_zero_of_running ended]
  | succ n ih =>
    obtain ⟨t, e, -⟩ := step_answers s
    cases ended : s.ended with
    | true =>
      rw [runEnd_of_ended ended, Option.some_inj]
      constructor
      · exact fun same => ⟨0, Nat.zero_le _, firstEnded_zero.2 ⟨ended, same.symm⟩⟩
      · rintro ⟨k, -, first⟩
        cases k with
        | zero => exact (firstEnded_zero.1 first).2.symm
        | succ k =>
          obtain ⟨running, -⟩ := (firstEnded_succ e k).1 first
          rw [ended] at running; cases running
    | false =>
      rw [runEnd_succ_of_running ended e, ih]
      constructor
      · exact fun ⟨k, bound, first⟩ => ⟨k + 1, Nat.succ_le_succ bound, (firstEnded_succ e k).2 ⟨ended, first⟩⟩
      · rintro ⟨k, bound, first⟩
        cases k with
        | zero =>
          obtain ⟨ended', -⟩ := firstEnded_zero.1 first
          rw [ended] at ended'; cases ended'
        | succ k =>
          obtain ⟨-, rest⟩ := (firstEnded_succ e k).1 first
          exact ⟨k, Nat.le_of_succ_le_succ bound, rest⟩

/-- A run has one first ended state. -/
theorem FirstEnded.unique {j k : Nat} {s u v : State} (a : FirstEnded j s u) (b : FirstEnded k s v) : u = v := by
  obtain ⟨runA, endedA, earlierA⟩ := a
  obtain ⟨runB, endedB, earlierB⟩ := b
  rcases Nat.lt_trichotomy j k with before | rfl | after
  · rw [earlierB j u before runA] at endedA; cases endedA
  · exact Host.Outcome.next.inj (runA.symm.trans runB)
  · rw [earlierA k v after runB] at endedB; cases endedB

theorem EndsAt.unique {s u v : State} (a : EndsAt s u) (b : EndsAt s v) : u = v := by
  obtain ⟨m, runA⟩ := a
  obtain ⟨n, runB⟩ := b
  obtain ⟨j, -, firstA⟩ := (runEnd_eq_some_iff m s u).1 runA
  obtain ⟨k, -, firstB⟩ := (runEnd_eq_some_iff n s v).1 runB
  exact firstA.unique firstB

/-- The two conditions of 60_exceptions.md R174, with the rest phases named. -/
theorem State.ended_iff_phase (s : State) :
    s.ended = true ↔ s.env.program = [] ∧ (s.hpe.phase = .idle ∨ s.hpe.phase = .released) := by
  rw [State.ended_iff, Hpe.busy_eq_false, or_comm]

theorem State.running_iff_phase (s : State) :
    s.ended = false ↔ ¬ (s.env.program = [] ∧ (s.hpe.phase = .idle ∨ s.hpe.phase = .released)) := by
  rw [← State.ended_iff_phase, Bool.not_eq_true]

theorem State.endState_register (u : State) (a : RegAddr) :
    u.endState.registers[a.toNat]? = some (regRead a u.hpe) := by
  rw [State.endState, List.getElem?_map, List.getElem?_range a.isLt, Option.map_some, BitVec.ofNat_toNat,
    BitVec.setWidth_eq]

/-- Settles O54: the search finds the first ended state, which is unique; the end state by its definition. -/
theorem runEndsAtItsFirstEndedState : Obligations.RunEndsAtItsFirstEndedState := by
  unfold Obligations.RunEndsAtItsFirstEndedState
  refine ⟨fun n s u => (runEnd_eq_some_iff n s u).trans ?_, fun s u v => EndsAt.unique, State.endState_register,
    fun u => rfl⟩
  exact exists_congr fun k => and_congr_right fun _ => and_congr_right fun _ =>
    and_congr u.ended_iff_phase (forall₄_congr fun j v _ _ => State.running_iff_phase v)

/-! ### Runs that do not end -/

/-- A run does not end that stays where it has not ended. -/
theorem not_endsAt_of_kept {P : State → Prop} (keep : ∀ s t, P s → step s = .next t → P t)
    (running : ∀ s, P s → s.ended = false) {s : State} (start : P s) (u : State) : ¬ EndsAt s u := by
  rintro ⟨n, e⟩
  induction n generalizing s with
  | zero => rw [runEnd_zero_of_running (running s start)] at e; cases e
  | succ n ih =>
    obtain ⟨t, move, -⟩ := step_answers s
    rw [runEnd_succ_of_running (running s start) move] at e
    exact ih (keep s t start move) e

/-- A step takes the program's next line or stays at it. -/
theorem step_program {s t : State} (e : step s = .next t) :
    t.env.program = s.env.program ∨ t.env.program = s.env.program.tail := by
  have program : s.tick.holdReset.env.program = s.env.program := by rw [State.holdReset_env]; rfl
  rcases step_cases e with ⟨-, rfl⟩ | ⟨c, -, rfl⟩ | ⟨-, e⟩ | ⟨b, -, rfl⟩ | ⟨v, -, rfl⟩
  · exact .inl program
  · exact .inl program
  · rw [← program]; exact controllerTurn_program e
  · exact .inl program
  · exact .inl program

/-- With `rst` released, only engine and controller turns are scheduled: the host and `rst` stay silent. -/
structure State.Silent (s : State) : Prop where
  rst : s.env.rst = false
  turns : ∀ n ∈ s.env.schedule, n = .engine ∨ n = .controller

section Silent

variable {s t : State} (silent : s.Silent)
include silent

theorem State.Silent.nextTurn_cases : s.nextTurn = .engine ∨ s.nextTurn = .controller := by
  cases sched : s.env.schedule with
  | nil => exact .inl (State.nextTurn_of_nil sched)
  | cons n ts =>
    rw [State.nextTurn_of_cons sched]
    exact silent.turns n (by simp [sched])

theorem State.Silent.no_other_turn {n : Turn} (next : s.nextTurn = n) : n = .engine ∨ n = .controller :=
  next ▸ silent.nextTurn_cases

theorem State.Silent.after_step (e : step s = .next t) : t.Silent where
  rst := by
    rcases step_rst_cases e with same | n
    · exact same.trans silent.rst
    · exact absurd (silent.no_other_turn n) (by simp)
  turns := fun n m => silent.turns n (List.mem_of_mem_tail (step_schedule e ▸ m))

theorem State.Silent.inp_after_step (e : step s = .next t) : t.hpe.inp = s.hpe.inp := by
  rcases step_inp_cases e with same | ⟨c, n⟩ | ⟨v, n⟩
  · exact same
  · exact absurd (silent.no_other_turn n) (by simp)
  · exact absurd (silent.no_other_turn n) (by simp)

end Silent

/-- The engine is held, the program releases nothing, and the host and `rst` stay silent. -/
structure State.Held (s : State) : Prop where
  silent : s.Silent
  wait : s.hpe.waitCondition = some false
  keeps : ProgLine.wr 0x0 0x07 ∉ s.env.program

theorem Hpe.waitCondition_congr {g h : Hpe} (phase : h.phase = g.phase) (inp : h.inp = g.inp) :
    h.waitCondition = g.waitCondition := by
  rw [Hpe.waitCondition, Hpe.waitCondition, phase, inp]

theorem State.Held.after_step {s t : State} (held : s.Held) (e : step s = .next t) : t.Held where
  silent := held.silent.after_step e
  wait := by
    rw [← held.wait]
    refine Hpe.waitCondition_congr ?_ (held.silent.inp_after_step e)
    rcases (step_hpe held.silent.rst e).phase_of_held held.wait with same | ⟨-, ⟨ls, line⟩, -⟩ | ⟨n, -⟩
    · exact same
    · exact absurd (by simp [line]) held.keeps
    · exact absurd (held.silent.no_other_turn n) (by simp)
  keeps := by
    rcases step_program e with program | program <;> rw [program]
    · exact held.keeps
    · exact fun m => held.keeps (List.mem_of_mem_tail m)

theorem State.ended_of_busy {s : State} (busy : s.hpe.busy = true) : s.ended = false := by
  simp [State.ended, busy]

/-- The controller is at this POLL, its masked byte is not the awaited one, the engine has no step, and the host and
`rst` stay silent. -/
structure State.Spins (a : RegAddr) (mask val : Byte) (ls : List ProgLine) (s : State) : Prop where
  silent : s.Silent
  line : s.env.program = .poll a mask val :: ls
  other : regRead a s.hpe &&& mask ≠ val
  still : engineStep s.hpe = none

/-- Neither the engine nor the controller does anything. -/
theorem State.Spins.step_eq {a : RegAddr} {mask val : Byte} {ls : List ProgLine} {s : State}
    (spins : s.Spins a mask val ls) : step s = .next s.tick := by
  rcases spins.silent.nextTurn_cases with n | n
  · rw [step_of_engine spins.silent.rst n, engineTurn_of_none spins.still]; rfl
  · obtain ⟨-, stay⟩ := pollWaitsForTheMaskedByte s a mask val ls spins.silent.rst n spins.line
    exact stay spins.other

theorem State.Spins.after_step {a : RegAddr} {mask val : Byte} {ls : List ProgLine} {s t : State}
    (spins : s.Spins a mask val ls) (e : step s = .next t) : t.Spins a mask val ls := by
  have silent := spins.silent.after_step e
  cases e.symm.trans spins.step_eq
  exact ⟨silent, spins.line, spins.other, spins.still⟩

theorem State.ended_of_line {s : State} {l : ProgLine} {ls : List ProgLine} (line : s.env.program = l :: ls) :
    s.ended = false := by
  simp [State.ended, line]

/-- Settles O55: both situations are kept by every step, and neither is an ended state. -/
theorem stalledRunsDoNotEnd : Obligations.StalledRunsDoNotEnd := by
  unfold Obligations.StalledRunsDoNotEnd
  refine fun s r turns => ⟨fun wait keeps => ?_, fun a mask val ls line other still => ?_⟩
  · exact not_endsAt_of_kept (P := State.Held) (fun s t held => held.after_step)
      (fun s held => State.ended_of_busy (Hpe.busy_of_waitCondition held.wait)) ⟨⟨r, turns⟩, wait, keeps⟩
  · exact not_endsAt_of_kept (P := State.Spins a mask val ls) (fun s t spins => spins.after_step)
      (fun s spins => State.ended_of_line spins.line) ⟨⟨r, turns⟩, line, other, still⟩

end Sys2Proof.Machine
